-- ==== Sys2Proof/Word.lean ====
section
/-! DEFINITION. The bit-vector types of the block: bytes, logical addresses, 32-bit words (spec/00_scope.md R8, R9). -/

namespace Sys2Proof

/-- A byte, R9. An opcode is a byte (00_scope.md R7, OPC_BITS = 8). -/
abbrev Byte := BitVec 8

/-- A logical address, 0..15 (R8). -/
abbrev LogicalAddr := BitVec 4

/-- A 4-byte word: CMDW, RESPW, WAIT and the numeric VALUE operands (30_encoding.md R155 to R161). -/
abbrev Word32 := BitVec 32

end Sys2Proof
end

