-- ==== Sys2Proof/Machine/Bytes.lean ====
section
/-! DEFINITION. Byte-order helpers: the big-endian split and join of spec/00_scope.md R10. -/

namespace Sys2Proof

/-- `be_N(v)`: the N bytes of v, most significant first (R10). Byte i is `v[8(N-1-i)+7 : 8(N-1-i)]`. -/
def be (n v : Nat) : List Byte :=
  (List.range n).map fun i => BitVec.ofNat 8 (v >>> (8 * (n - 1 - i)))

/-- `unbe(s)`: the number whose big-endian bytes are s (R10). -/
def unbe (s : List Byte) : Nat :=
  s.foldl (fun acc b => acc * 256 + b.toNat) 0

end Sys2Proof
end

