-- ==== Sys2Proof/Config.lean ====
section
/-! DEFINITION. The payload families and their values (spec/00_scope.md R11, 30_encoding.md R143), the parameters a model takes (R7), and the one free value. -/

namespace Sys2Proof

/-- The nine payload families (30_encoding.md R143). -/
inductive Family where
  | empty | version | physAddr | vendorId | language | osdName | powerStatus | uiKey | raw
  deriving DecidableEq, Repr, Inhabited

/-- A value of some family: the constructor is the family (00_scope.md R11). A language tag has exactly
three bytes; the length bounds of `osdName` and `raw` are `Value.legal` (Machine/Params.lean). -/
inductive Value where
  | empty
  | version (v : BitVec 8)
  | physAddr (v : BitVec 16)
  | vendorId (v : BitVec 24)
  | language (b0 b1 b2 : Byte)
  | osdName (b : List Byte)
  | powerStatus (v : BitVec 8)
  | uiKey (v : BitVec 8)
  | raw (b : List Byte)
  deriving DecidableEq, Repr, Inhabited

/-- BUSY_POLICY: what EXCHANGE does while a transaction is in progress (00_scope.md R7, 43_adapter.md R321). -/
inductive BusyPolicy where
  | block | failFast
  deriving DecidableEq, Repr

/-- The parameters of 00_scope.md R7 that are not fixed by the source. They are fixed before reset and never
change (70_reset_and_hazards.md R463). `catalog` lists the opcodes whose family is not RAW. `eps` is timing
only: no rule depends on it (R480). -/
structure Config where
  ownLa : LogicalAddr
  nc : Nat
  nx : Nat
  txaDepth : Nat
  osdNameMax : Nat
  busyPolicy : BusyPolicy
  catalog : List (Byte × Family)
  eps : Nat
  deriving DecidableEq, Repr

/-- FREE VALUE (log 9). What REG[o].VAL holds where 41_registry.md R260 and R261 write "unspecified". Nothing
constrains it; it is applied to the counter `State.freeCount`, so no two occurrences are known to agree. -/
opaque Config.freeValue : Nat → Value

end Sys2Proof
end

