-- ==== Sys2Proof/Machine/Params.lean ====
section
/-! DEFINITION. The tables of spec/30_encoding.md R143 and R153 (family codes, widths, the default catalog), the
fixed parameters of 00_scope.md R7, and well-formedness of a configuration (70_reset_and_hazards.md R463). -/

namespace Sys2Proof

/-- BROADCAST, the broadcast logical address (00_scope.md R7). -/
def broadcast : LogicalAddr := 15#4

/-- FRAME_MAX, bytes in a frame, opcode included (00_scope.md R7). -/
abbrev frameMax : Nat := 15

/-- PARAM_MAX, parameter bytes in a frame (00_scope.md R7). -/
abbrev paramMax : Nat := 14

/-- The family's code (30_encoding.md R143). -/
def Family.code : Family → BitVec 4
  | .empty => 0
  | .version => 1
  | .physAddr => 2
  | .vendorId => 3
  | .language => 4
  | .osdName => 5
  | .powerStatus => 6
  | .uiKey => 7
  | .raw => 8

/-- `W(f)` for a fixed-width family, `none` for a variable-length one (R143, `isFixed`). -/
def Family.width : Family → Option Nat
  | .empty => some 0
  | .version => some 1
  | .physAddr => some 2
  | .vendorId => some 3
  | .language => some 3
  | .osdName => none
  | .powerStatus => some 1
  | .uiKey => some 1
  | .raw => none

/-- `emptyOk(f)`: an empty encoding is a valid payload (40_frame_codec.md R220). -/
def Family.emptyOk : Family → Bool
  | .empty => true
  | .raw => true
  | _ => false

/-- The family a value belongs to (00_scope.md R11). -/
def Value.family : Value → Family
  | .empty => .empty
  | .version _ => .version
  | .physAddr _ => .physAddr
  | .vendorId _ => .vendorId
  | .language _ _ _ => .language
  | .osdName _ => .osdName
  | .powerStatus _ => .powerStatus
  | .uiKey _ => .uiKey
  | .raw _ => .raw

/-- Membership in `Value(f)` of the two families whose length is bounded (00_scope.md R11). -/
def Value.legal (osdNameMax : Nat) : Value → Bool
  | .osdName b => b.length ≤ osdNameMax
  | .raw b => b.length ≤ paramMax
  | _ => true

/-- CATALOG(o): the family the catalog lists for o, RAW for every opcode it does not list (30_encoding.md R153). -/
def catalogFamily (catalog : List (Byte × Family)) (o : Byte) : Family :=
  match catalog with
  | [] => .raw
  | (o', f) :: rest => if o = o' then f else catalogFamily rest o

/-- CATALOG(o) of a configuration. -/
def Config.family (c : Config) (o : Byte) : Family := catalogFamily c.catalog o

/-- The default catalog, the table of 30_encoding.md R153. Every opcode value but 0x9F and 0x9E is the spec's
general knowledge (93_implementation_defined.md G1, log 18). -/
def defaultCatalog : List (Byte × Family) :=
  [(0x9F, .empty), (0x9E, .version), (0x83, .empty), (0x84, .physAddr), (0x36, .empty), (0x46, .empty),
   (0x47, .osdName), (0x8C, .empty), (0x87, .vendorId), (0x91, .empty), (0x32, .language), (0x8F, .empty),
   (0x90, .powerStatus), (0x44, .uiKey), (0x45, .empty)]

/-- DESIGN CHOICE (log 1): the configuration `State.reset` uses, that of 95_test_vectors.md (decision D49). -/
def Config.standard : Config where
  ownLa := 4
  nc := 2
  nx := 4
  txaDepth := 2
  osdNameMax := 14
  busyPolicy := .block
  catalog := defaultCatalog
  eps := 0

/-- A well-formed configuration (70_reset_and_hazards.md R463). BUSY_POLICY and CATALOG are well-formed by type. -/
def Config.wf (c : Config) : Bool :=
  c.ownLa ≠ broadcast && 1 ≤ c.nc && 1 ≤ c.nx && c.nx ≤ 16 && 1 ≤ c.txaDepth && 14 ≤ c.osdNameMax && c.osdNameMax ≤ 255

end Sys2Proof
end

