-- ==== Sys2Proof/Syntax.lean ====
section
/-! DEFINITION. The instructions: one constructor per row of spec/opcode_table.json. A command keeps every field of its
CMDW, reserved ones included, because a nonzero reserved field is answered by the command's own check
(30_encoding.md R164, 44_status.md R391). -/

namespace Sys2Proof

/-- The fields of CMDW below OP (30_encoding.md R155). -/
structure Header where
  la : LogicalAddr
  opc : Byte
  opc2 : Byte
  slot : BitVec 4
  flg : BitVec 4
  deriving DecidableEq, Repr

/-- The fields of a TX_DONE word that are reserved: all but FLG[1] (tag) and FLG[0] (success) (30_encoding.md R157). -/
structure TxDoneRest where
  la : LogicalAddr
  opc : Byte
  opc2 : Byte
  slot : BitVec 4
  flgHi : BitVec 2
  deriving DecidableEq, Repr

/-- A VALUE operand as it stands after CMDW (30_encoding.md R158): nothing, a 4-byte word, or a length byte and
that many bytes. -/
inductive Operand where
  | none
  | word (v : Word32)
  | bytes (b : List Byte)
  deriving DecidableEq, Repr

/-- The instructions. The first nineteen are command words (30_encoding.md R156); the last sixteen are CEC frames,
named by their opcode (R153), with the frame's parameter bytes (R140). -/
inductive Instr where
  | exCreate (h : Header) (v : Operand)
  | exchange (h : Header) (wait : Word32)
  | exRead (h : Header)
  | announce (h : Header) (v : Operand)
  | revoke (h : Header)
  | lookup (h : Header)
  | statusRead (h : Header)
  | codecSer (h : Header) (v : Operand)
  | codecDes (h : Header) (b : List Byte)
  | received (h : Header) (b : List Byte)
  | txDoneXFail (r : TxDoneRest)
  | txDoneXOk (r : TxDoneRest)
  | txDoneAFail (r : TxDoneRest)
  | txDoneAOk (r : TxDoneRest)
  | tick (h : Header)
  | reserved0 (h : Header)
  | reservedD (h : Header)
  | reservedE (h : Header)
  | reservedF (h : Header)
  | getCecVersion (p : List Byte)
  | cecVersion (p : List Byte)
  | givePhysicalAddr (p : List Byte)
  | reportPhysicalAddr (p : List Byte)
  | standby (p : List Byte)
  | giveOsdName (p : List Byte)
  | setOsdName (p : List Byte)
  | giveDeviceVendorId (p : List Byte)
  | deviceVendorId (p : List Byte)
  | getMenuLanguage (p : List Byte)
  | setMenuLanguage (p : List Byte)
  | giveDevicePowerStatus (p : List Byte)
  | reportPowerStatus (p : List Byte)
  | userControlPressed (p : List Byte)
  | userControlReleased (p : List Byte)
  | otherOpcode (o : Byte) (p : List Byte)
  deriving DecidableEq, Repr

end Sys2Proof
end

