-- ==== Sys2Proof/WellFormed.lean ====
section
/-! DEFINITION. Which instructions a byte string can spell: the operand's form is the one the header and CATALOG select
(spec/30_encoding.md R157, R158, R167), and a frame has at most 14 parameter bytes (R140). -/

namespace Sys2Proof

/-- The operand has the form R158 gives family f. A length byte holds at most 255. -/
def operandFits : Family → Operand → Bool
  | .empty, .none => true
  | .version, .word _ => true
  | .physAddr, .word _ => true
  | .vendorId, .word _ => true
  | .powerStatus, .word _ => true
  | .uiKey, .word _ => true
  | .language, .bytes b => b.length ≤ 255
  | .osdName, .bytes b => b.length ≤ 255
  | .raw, .bytes b => b.length ≤ 255
  | _, _ => false

/-- The frame has at most PARAM_MAX parameter bytes. -/
def paramsFit (p : List Byte) : Bool := p.length ≤ paramMax

/-- The opcodes that have a row of their own in opcode_table.json (30_encoding.md R153). -/
def namedOpcodes : List Byte :=
  [0x9F, 0x9E, 0x83, 0x84, 0x36, 0x46, 0x47, 0x8C, 0x87, 0x91, 0x32, 0x8F, 0x90, 0x44, 0x45]

/-- A well-formed instruction under a catalog. -/
def wellFormed (cat : List (Byte × Family)) : Instr → Bool
  | .exCreate h v => operandFits (catalogFamily cat h.opc) v
  | .exchange _ _ => true
  | .exRead _ => true
  | .announce h v => if h.flg.getLsbD 0 then operandFits (catalogFamily cat h.opc2) v else v = .none
  | .revoke _ => true
  | .lookup _ => true
  | .statusRead _ => true
  | .codecSer h v => operandFits (catalogFamily cat h.opc) v
  | .codecDes h b => b.length = h.flg.toNat
  | .received h b => b.length = h.flg.toNat
  | .txDoneXFail _ => true
  | .txDoneXOk _ => true
  | .txDoneAFail _ => true
  | .txDoneAOk _ => true
  | .tick _ => true
  | .reserved0 _ => true
  | .reservedD _ => true
  | .reservedE _ => true
  | .reservedF _ => true
  | .getCecVersion p => paramsFit p
  | .cecVersion p => paramsFit p
  | .givePhysicalAddr p => paramsFit p
  | .reportPhysicalAddr p => paramsFit p
  | .standby p => paramsFit p
  | .giveOsdName p => paramsFit p
  | .setOsdName p => paramsFit p
  | .giveDeviceVendorId p => paramsFit p
  | .deviceVendorId p => paramsFit p
  | .getMenuLanguage p => paramsFit p
  | .setMenuLanguage p => paramsFit p
  | .giveDevicePowerStatus p => paramsFit p
  | .reportPowerStatus p => paramsFit p
  | .userControlPressed p => paramsFit p
  | .userControlReleased p => paramsFit p
  | .otherOpcode o p => paramsFit p && !namedOpcodes.contains o

end Sys2Proof
end

