-- ==== Sys2Proof/Decode.lean ====
section
/-! DEFINITION. The decoder of command byte strings and of frames, total on any bytes and rejecting by name, and the encoder,
both from the tables of spec/30_encoding.md (R140, R153, R155 to R160, R167). -/

namespace Sys2Proof

/-- Why bytes spell no instruction. -/
inductive DecodeError where
  /-- Fewer than the four bytes of CMDW (R155). -/
  | shortHeader
  /-- The operands the header calls for are not all there (R157, R167). -/
  | shortOperand
  /-- A unit of length 0 is a footer, not a frame (20_memory.md R103). -/
  | footer
  /-- A frame has at most 15 bytes (20_memory.md R102). -/
  | longFrame
  deriving DecidableEq, Repr

/-! ## Command words -/

/-- CMDW from its fields, OP in bits 31:28 down to FLG in bits 3:0 (R155). -/
def cmdw (op : BitVec 4) (h : Header) : Word32 :=
  op ++ h.la ++ h.opc ++ h.opc2 ++ h.slot ++ h.flg

/-- OP, bits 31:28 (R155). -/
def cmdwOp (w : Word32) : BitVec 4 := w.extractLsb' 28 4

/-- The fields below OP (R155). -/
def cmdwHeader (w : Word32) : Header where
  la := w.extractLsb' 24 4
  opc := w.extractLsb' 16 8
  opc2 := w.extractLsb' 8 8
  slot := w.extractLsb' 4 4
  flg := w.extractLsb' 0 4

/-- A TX_DONE word's header from its reserved fields, the tag and the success bit (R157). -/
def txDoneHeader (r : TxDoneRest) (tag : BitVec 1) (ok : BitVec 1) : Header where
  la := r.la
  opc := r.opc
  opc2 := r.opc2
  slot := r.slot
  flg := r.flgHi ++ tag ++ ok

/-- The reserved fields of a TX_DONE word (R157). -/
def txDoneRest (h : Header) : TxDoneRest where
  la := h.la
  opc := h.opc
  opc2 := h.opc2
  slot := h.slot
  flgHi := h.flg.extractLsb' 2 2

/-- Take n bytes off the front. -/
def takeBytes (n : Nat) (bs : List Byte) : Option (List Byte × List Byte) :=
  if n ≤ bs.length then some (bs.take n, bs.drop n) else none

/-- Take a 4-byte big-endian word off the front. -/
def takeWord : List Byte → Option (Word32 × List Byte)
  | b0 :: b1 :: b2 :: b3 :: rest => some (BitVec.ofNat 32 (unbe [b0, b1, b2, b3]), rest)
  | _ => none

/-- Take a length byte L and L bytes off the front (R158). -/
def takeCounted : List Byte → Option (Operand × List Byte)
  | [] => none
  | l :: rest => (takeBytes l.toNat rest).map fun (b, rest) => (.bytes b, rest)

/-- Take the VALUE operand of family f off the front (R158). -/
def takeValue (f : Family) (bs : List Byte) : Option (Operand × List Byte) :=
  match f with
  | .empty => some (.none, bs)
  | .version | .physAddr | .vendorId | .powerStatus | .uiKey => (takeWord bs).map fun (w, rest) => (.word w, rest)
  | .language | .osdName | .raw => takeCounted bs

/-- The instruction of a header and the bytes after it, with the bytes that are left (R156, R157, R167).
`none`: the operands are not all there. -/
def decodeOperands (cat : List (Byte × Family)) (op : BitVec 4) (h : Header) (bs : List Byte) :
    Option (Instr × List Byte) :=
  match op.toNat with
  | 0 => some (.reserved0 h, bs)
  | 1 => (takeValue (catalogFamily cat h.opc) bs).map fun (v, rest) => (.exCreate h v, rest)
  | 2 => (takeWord bs).map fun (w, rest) => (.exchange h w, rest)
  | 3 => some (.exRead h, bs)
  | 4 => if h.flg.getLsbD 0 then (takeValue (catalogFamily cat h.opc2) bs).map fun (v, rest) => (.announce h v, rest)
         else some (.announce h .none, bs)
  | 5 => some (.revoke h, bs)
  | 6 => some (.lookup h, bs)
  | 7 => some (.statusRead h, bs)
  | 8 => (takeValue (catalogFamily cat h.opc) bs).map fun (v, rest) => (.codecSer h v, rest)
  | 9 => (takeBytes h.flg.toNat bs).map fun (b, rest) => (.codecDes h b, rest)
  | 10 => (takeBytes h.flg.toNat bs).map fun (b, rest) => (.received h b, rest)
  | 11 => match h.flg.getLsbD 1, h.flg.getLsbD 0 with
          | false, false => some (.txDoneXFail (txDoneRest h), bs)
          | false, true => some (.txDoneXOk (txDoneRest h), bs)
          | true, false => some (.txDoneAFail (txDoneRest h), bs)
          | true, true => some (.txDoneAOk (txDoneRest h), bs)
  | 12 => some (.tick h, bs)
  | 13 => some (.reservedD h, bs)
  | 14 => some (.reservedE h, bs)
  | _ => some (.reservedF h, bs)

/-- Decode the first command of a byte string (R155, R167): the instruction and the bytes after it. -/
def decodeCommand (cat : List (Byte × Family)) (bs : List Byte) : Except DecodeError (Instr × List Byte) :=
  match takeWord bs with
  | none => .error .shortHeader
  | some (w, rest) =>
    match decodeOperands cat (cmdwOp w) (cmdwHeader w) rest with
    | none => .error .shortOperand
    | some r => .ok r

/-! ## Frames -/

/-- The instruction of a frame with opcode o and parameters p (R140, R153). -/
def frameInstr (o : Byte) (p : List Byte) : Instr :=
  if o = 0x9F then .getCecVersion p
  else if o = 0x9E then .cecVersion p
  else if o = 0x83 then .givePhysicalAddr p
  else if o = 0x84 then .reportPhysicalAddr p
  else if o = 0x36 then .standby p
  else if o = 0x46 then .giveOsdName p
  else if o = 0x47 then .setOsdName p
  else if o = 0x8C then .giveDeviceVendorId p
  else if o = 0x87 then .deviceVendorId p
  else if o = 0x91 then .getMenuLanguage p
  else if o = 0x32 then .setMenuLanguage p
  else if o = 0x8F then .giveDevicePowerStatus p
  else if o = 0x90 then .reportPowerStatus p
  else if o = 0x44 then .userControlPressed p
  else if o = 0x45 then .userControlReleased p
  else .otherOpcode o p

/-- Decode a whole frame; its length travels beside it (R140, 20_memory.md R102, R103). -/
def decodeFrame (b : List Byte) : Except DecodeError Instr :=
  match b with
  | [] => .error .footer
  | o :: p => if frameMax < b.length then .error .longFrame else .ok (frameInstr o p)

/-! ## The encoder -/

/-- The bytes of a command header, most significant first (R155). -/
def headerBytes (op : BitVec 4) (h : Header) : List Byte := be 4 (cmdw op h).toNat

/-- The bytes of a VALUE operand (R158). -/
def operandBytes : Operand → List Byte
  | .none => []
  | .word v => be 4 v.toNat
  | .bytes b => BitVec.ofNat 8 b.length :: b

/-- The bytes of an instruction: CMDW and operands for a command (R155 to R160), opcode and parameters for a frame (R140). -/
def encode : Instr → List Byte
  | .exCreate h v => headerBytes 1 h ++ operandBytes v
  | .exchange h w => headerBytes 2 h ++ be 4 w.toNat
  | .exRead h => headerBytes 3 h
  | .announce h v => headerBytes 4 h ++ operandBytes v
  | .revoke h => headerBytes 5 h
  | .lookup h => headerBytes 6 h
  | .statusRead h => headerBytes 7 h
  | .codecSer h v => headerBytes 8 h ++ operandBytes v
  | .codecDes h b => headerBytes 9 h ++ b
  | .received h b => headerBytes 10 h ++ b
  | .txDoneXFail r => headerBytes 11 (txDoneHeader r 0 0)
  | .txDoneXOk r => headerBytes 11 (txDoneHeader r 0 1)
  | .txDoneAFail r => headerBytes 11 (txDoneHeader r 1 0)
  | .txDoneAOk r => headerBytes 11 (txDoneHeader r 1 1)
  | .tick h => headerBytes 12 h
  | .reserved0 h => headerBytes 0 h
  | .reservedD h => headerBytes 13 h
  | .reservedE h => headerBytes 14 h
  | .reservedF h => headerBytes 15 h
  | .getCecVersion p => 0x9F :: p
  | .cecVersion p => 0x9E :: p
  | .givePhysicalAddr p => 0x83 :: p
  | .reportPhysicalAddr p => 0x84 :: p
  | .standby p => 0x36 :: p
  | .giveOsdName p => 0x46 :: p
  | .setOsdName p => 0x47 :: p
  | .giveDeviceVendorId p => 0x8C :: p
  | .deviceVendorId p => 0x87 :: p
  | .getMenuLanguage p => 0x91 :: p
  | .setMenuLanguage p => 0x32 :: p
  | .giveDevicePowerStatus p => 0x8F :: p
  | .reportPowerStatus p => 0x90 :: p
  | .userControlPressed p => 0x44 :: p
  | .userControlReleased p => 0x45 :: p
  | .otherOpcode o p => o :: p

/-- The instruction is a command word rather than a frame. -/
def Instr.isCommand : Instr → Bool
  | .exCreate _ _ | .exchange _ _ | .exRead _ | .announce _ _ | .revoke _ | .lookup _ | .statusRead _ | .codecSer _ _
  | .codecDes _ _ | .received _ _ | .txDoneXFail _ | .txDoneXOk _ | .txDoneAFail _ | .txDoneAOk _ | .tick _
  | .reserved0 _ | .reservedD _ | .reservedE _ | .reservedF _ => true
  | .getCecVersion _ | .cecVersion _ | .givePhysicalAddr _ | .reportPhysicalAddr _ | .standby _ | .giveOsdName _
  | .setOsdName _ | .giveDeviceVendorId _ | .deviceVendorId _ | .getMenuLanguage _ | .setMenuLanguage _
  | .giveDevicePowerStatus _ | .reportPowerStatus _ | .userControlPressed _ | .userControlReleased _
  | .otherOpcode _ _ => false

/-! ## Words as opcode_table.json numbers them (log 21) -/

/-- A table word is one byte of a frame (format CEC_OPCODE) or a CMDW (format CMDW). -/
def tableIsFrame (nbits : Nat) : Bool := nbits ≤ 8

/-- The bytes of a command numbered as the table numbers it: the CMDW, most significant byte first (R155), then the
bytes its higher bits spell, lowest first. -/
def tableBytes (nbits w : Nat) : List Byte :=
  be 4 (w % 2 ^ 32) ++ (List.range ((nbits - 32 + 7) / 8)).map fun j => BitVec.ofNat 8 (w >>> (32 + 8 * j))

/-- The number of operand bytes after a header when they are all zero (R167): a zero length byte stands alone. -/
def zeroOperandLength (cat : List (Byte × Family)) (op : BitVec 4) (h : Header) : Nat :=
  let valueLength (f : Family) : Nat :=
    match f with
    | .empty => 0
    | .version | .physAddr | .vendorId | .powerStatus | .uiKey => 4
    | .language | .osdName | .raw => 1
  match op.toNat with
  | 1 | 8 => valueLength (catalogFamily cat h.opc)
  | 2 => 4
  | 4 => if h.flg.getLsbD 0 then valueLength (catalogFamily cat h.opc2) else 0
  | 9 | 10 => h.flg.toNat
  | _ => 0

/-- Zero bytes for the operands a table word has no bits for; a word longer than a CMDW gets as many as the longest
command can need (4 + 1 + 255 bytes). -/
def operandZeros (cat : List (Byte × Family)) (nbits w : Nat) : List Byte :=
  if nbits ≤ 32 then
    List.replicate (zeroOperandLength cat (cmdwOp (BitVec.ofNat 32 w)) (cmdwHeader (BitVec.ofNat 32 w))) 0
  else List.replicate 256 0

/-- The command a table word spells, its operand bytes above nbits zero, and its exact bytes. -/
def tableCommand (cat : List (Byte × Family)) (nbits w : Nat) : Option (Instr × List Byte) :=
  let bs := tableBytes nbits w ++ operandZeros cat nbits w
  match decodeCommand cat bs with
  | .error _ => none
  | .ok (i, rest) => some (i, bs.take (bs.length - rest.length))

/-- The instruction the decoder reads from a table word, under the default catalog. -/
def decodeTableWord (nbits w : Nat) : Option Instr :=
  if tableIsFrame nbits then (decodeFrame [BitVec.ofNat 8 w]).toOption
  else (tableCommand defaultCatalog nbits w).map fun (i, _) => i

end Sys2Proof
end

