-- ==== Sys2Proof/Machine/State.lean ====
section
/-! DEFINITION. The state of the block (spec/10_state.md R30 to R58), the model's own fields that the form of step and exec
needs (log 1, 2, 5, 6, 9), the fault and refusal reasons, and the state after reset. -/

namespace Sys2Proof.Machine

/-- ST, the adapter state (10_state.md R32). -/
inductive AdapterState where
  | idle | pending | resolved | timedOut | failed
  deriving DecidableEq, Repr

/-- TX_X_RESULT (10_state.md R37). -/
inductive TxResult where
  | notYet | ok | fail
  deriving DecidableEq, Repr

/-- X[k].LIFE (10_state.md R44). -/
inductive Life where
  | released | created | armed | resolved | timedOut
  deriving DecidableEq, Repr

/-- One exchange slot X[k] (10_state.md R43). -/
structure Slot where
  life : Life
  reqOpc : Byte
  expValid : Bool
  expOpc : Byte
  ans : Bool
  dest : LogicalAddr
  reqVal : Value
  rplValid : Bool
  rplVal : Value
  deriving DecidableEq, Repr

/-- One registry entry REG[o] (10_state.md R46). -/
structure RegEntry where
  valid : Bool
  respond : Bool
  bcast : Bool
  rplOpc : Byte
  val : Value
  deriving DecidableEq, Repr

/-- A frame buffer of FRAME_MAX bytes (20_memory.md R101). -/
abbrev FrameBuf := Vector Byte 15

/-- A transmit request (10_state.md R48). -/
structure TxReq where
  init : LogicalAddr
  foll : LogicalAddr
  len : BitVec 4
  data : FrameBuf
  deriving DecidableEq, Repr

/-- PHASE[c] (10_state.md R52). -/
inductive Phase where
  | ready | admitWait | txnWait
  deriving DecidableEq, Repr

/-- LATCH[c] (10_state.md R52). -/
structure Latch where
  dest : LogicalAddr
  slot : BitVec 4
  wait : Word32
  deriving DecidableEq, Repr

/-- A caller port's own registers (10_state.md R52). -/
structure CallerPort where
  phase : Phase
  latch : Latch
  deriving DecidableEq, Repr

/-- CSCR, the codec scratch register (10_state.md R54). FAM is held as the family its code names. -/
structure Cscr where
  valid : Bool
  fam : Family
  val : Value
  deriving DecidableEq, Repr

/-- The three kinds of input port (00_scope.md, glossary; 30_encoding.md R165). -/
inductive Port where
  | caller (c : Nat)
  | channel
  | timer
  deriving DecidableEq, Repr

/-- RESULT (30_encoding.md R163). -/
inductive Result where
  | none | unavailable | timedOut | busy | payloadTooLarge | alreadyRegistered | notFound | unexpectedPayload
  | malformedPayload | illegalState | illegalCommand | badSlot | badValue
  deriving DecidableEq, Repr

/-- A response (30_encoding.md R161): RESULT, INFO, and the bytes that follow RESPW. -/
structure Response where
  result : Result
  info : BitVec 24
  tail : List Byte
  deriving DecidableEq, Repr

/-- A response and the port it is given on. -/
structure Output where
  port : Port
  resp : Response
  deriving DecidableEq, Repr

/-- A received unit, the inbound record of 30_encoding.md R142: DATA[0..LEN-1] is the frame, LEN = 0 a footer. -/
structure BusUnit where
  init : LogicalAddr
  len : BitVec 4
  data : FrameBuf
  deriving DecidableEq, Repr

/-- Which agent takes the next step (00_scope.md R6, 43_adapter.md R320). -/
inductive Move where
  /-- Caller port c: its next command when READY, ADMIT when in ADMIT_WAIT, RETURN when in TXN_WAIT. -/
  | caller (c : Nat)
  /-- The channel's next command (RECEIVED or TX_DONE). -/
  | channel
  /-- The channel hands over the next received unit. -/
  | deliver
  /-- The timer's next command (TICK). -/
  | timer
  /-- The timer's TIMEOUT step. -/
  | timeout
  /-- The environment's reset step (70_reset_and_hazards.md R460). -/
  | reset
  deriving DecidableEq, Repr

/-- The environment, as plain data the step reads (log 2): the schedule, the bytes the ports present, and the units in
transit. The front of each list is the oldest. The channel is reset with the block (70_reset_and_hazards.md R465), so what it
presents comes in parts: `channelIn` up to the next reset, then one entry of `channelLater` from each reset to the one after
it (log 13). -/
structure Env where
  schedule : List Move
  callerIn : List (List Byte)
  channelIn : List Byte
  channelLater : List (List Byte)
  timerIn : List Byte
  inbound : List BusUnit
  deriving DecidableEq, Repr

/-- What a guarded read names (60_exceptions.md R403, 93_implementation_defined.md U1 to U4). -/
inductive Unspecified where
  | curSlot | curDest | owner | reqVal | rplVal | regVal | latch | cscrFam | cscrVal
  deriving DecidableEq, Repr

/-- Faults. No rule of the spec reaches one (60_exceptions.md R403): a state in which one is raised breaks an invariant.
All are safe: the model stops where the spec gives no value. -/
inductive Fault where
  /-- A read of a register whose value the rules leave unspecified in this state (R403). Raised by the guarded reads of
  Machine/Ops.lean. Safe. -/
  | unspecifiedRead (what : Unspecified)
  /-- A slot index with no slot behind it (R403). Raised by `readSlot`. Safe. -/
  | slotIndex
  /-- A frame-buffer offset outside 0..14 (20_memory.md R104). Raised by `memRead` and `memWrite`. Safe. -/
  | bufferIndex
  /-- An offset inside the buffer but not below LEN of the frame in use, or, for a codec, outside the parameter region
  (20_memory.md R104, 93_implementation_defined.md U6). Raised by `memRead`, `memWrite`, `paramWrite` and `paramRead`. Safe. -/
  | paramRegion
  /-- A pair of TX_X_RESULT and ST that the table of 43_adapter.md R334 does not list. Raised by RETURN. Safe. -/
  | noCombination
  deriving DecidableEq, Repr

/-- Refusals. -/
inductive Refusal where
  /-- An instruction without a meaning, raised in exec's arms only. No arm raises it. Safe. -/
  | notModelled (mnemonic : String)
  /-- The configuration is ill-formed: "it has no reset and no step" (70_reset_and_hazards.md R463). Raised by step. Safe. -/
  | illFormedConfig
  deriving DecidableEq, Repr

/-- The whole state. The fields `config`, `env`, `issuer`, `rxInit`, `outputs` and `freeCount` are the model's own
(log 1, 2, 5, 6, 9); every other field is the spec's. -/
structure State where
  /-- The parameters of 00_scope.md R7. No step writes them. -/
  config : Config
  /-- ST (R32). -/
  st : AdapterState
  /-- CUR_VALID (R33). -/
  curValid : Bool
  /-- CUR_SLOT (R33). -/
  curSlot : BitVec 4
  /-- CUR_DEST (R34). -/
  curDest : LogicalAddr
  /-- OWNER (R35), a port number. -/
  owner : Nat
  /-- WAIT_MS (R36). -/
  waitMs : Word32
  /-- ELAPSED (R36). -/
  elapsed : Word32
  /-- TIMER_RUN (R36). -/
  timerRun : Bool
  /-- TX_X_RESULT (R37). -/
  txXResult : TxResult
  /-- REPLY_SINK (R38). -/
  replySink : Bool
  /-- INBOUND_SINK (R39). -/
  inboundSink : Bool
  /-- REG_CONFLICT (R40). -/
  regConflict : Bool
  /-- X[0..NX-1] (R42). -/
  slots : List Slot
  /-- REG[0..255] (R46). -/
  reg : Vector RegEntry 256
  /-- TXX (R49). -/
  txx : Option TxReq
  /-- TXA (R50), head first. -/
  txa : List TxReq
  /-- PHASE[c] and LATCH[c], c = 0..NC-1 (R52). -/
  ports : List CallerPort
  /-- CSCR (R54). -/
  cscr : Cscr
  /-- The port the step in progress takes its command from (log 6). -/
  issuer : Port
  /-- INIT of the unit being delivered (log 6). -/
  rxInit : LogicalAddr
  /-- How many free values have been used (log 9). -/
  freeCount : Nat
  /-- The environment's inputs (log 2). -/
  env : Env
  /-- The responses given so far, oldest first (log 5). -/
  outputs : List Output
  deriving DecidableEq, Repr

/-- A slot at reset (10_state.md R43; REQ_VAL and RPL_VAL: DESIGN CHOICE, log 8). -/
def Slot.reset : Slot where
  life := .released
  reqOpc := 0
  expValid := false
  expOpc := 0
  ans := false
  dest := 0
  reqVal := .empty
  rplValid := false
  rplVal := .empty

/-- A registry entry at reset (10_state.md R46; VAL: DESIGN CHOICE, log 8). -/
def RegEntry.reset : RegEntry where
  valid := false
  respond := false
  bcast := false
  rplOpc := 0
  val := .empty

/-- A caller port at reset (10_state.md R52; LATCH: DESIGN CHOICE, log 8). -/
def CallerPort.reset : CallerPort where
  phase := .ready
  latch := { dest := 0, slot := 0, wait := 0 }

/-- An environment that presents nothing (log 2). -/
def Env.quiet (c : Config) : Env where
  schedule := []
  callerIn := List.replicate c.nc []
  channelIn := []
  channelLater := []
  timerIn := []
  inbound := []

/-- The state after reset under a configuration (10_state.md R58, 70_reset_and_hazards.md R461, R462).
CUR_SLOT, CUR_DEST, OWNER, CSCR.FAM and CSCR.VAL: DESIGN CHOICE, log 8. -/
def State.resetOf (c : Config) : State where
  config := c
  st := .idle
  curValid := false
  curSlot := 0
  curDest := 0
  owner := 0
  waitMs := 0
  elapsed := 0
  timerRun := false
  txXResult := .notYet
  replySink := false
  inboundSink := true
  regConflict := false
  slots := List.replicate c.nx Slot.reset
  reg := Vector.replicate 256 RegEntry.reset
  txx := none
  txa := []
  ports := List.replicate c.nc CallerPort.reset
  cscr := { valid := false, fam := .empty, val := .empty }
  issuer := .caller 0
  rxInit := 0
  freeCount := 0
  env := Env.quiet c
  outputs := []

/-- The machine right after reset, under the configuration of 95_test_vectors.md (log 1). -/
def State.reset : State := State.resetOf Config.standard

end Sys2Proof.Machine
end

