-- ==== Sys2Proof/Machine/Ops.lean ====
section
/-! DEFINITION. The named operations over the registers, tables and the frame buffer, and answering a command: `respond`,
and `raise`, the block's one way to report an error (spec/00_scope.md R12, 60_exceptions.md R400). -/

namespace Sys2Proof.Machine

/-- The outcome of a step of this machine. -/
abbrev Step := Host.Outcome State Fault Refusal

/-- Go on with a value that was read, or stop with the fault of reading it (60_exceptions.md R403). -/
def orFault {α : Type} (x : Except Fault α) (k : α → Step) : Step :=
  match x with
  | .error f => .fault f
  | .ok a => k a

/-! ## Answering a command -/

/-- `respond E(info)` with the bytes that follow RESPW: one response on port p (30_encoding.md R161). -/
def respond (p : Port) (r : Response) (s : State) : State :=
  { s with outputs := s.outputs ++ [{ port := p, resp := r }] }

/-- `raise E`: an error response with INFO = 0 and no VALUE. No state is saved, no mode changes and control goes
nowhere (00_scope.md R12, 60_exceptions.md R400). -/
def raise (p : Port) (e : Result) (s : State) : State :=
  respond p { result := e, info := 0, tail := [] } s

/-- `respond ERROR_NONE` with INFO = 0 and no VALUE. -/
def respondOk (p : Port) (s : State) : State :=
  respond p { result := .none, info := 0, tail := [] } s

/-- A refused command (44_status.md R391): no state change, and ERROR_ILLEGAL_COMMAND as the response on a caller port or
for RECEIVED; a refused command on another port has no effect at all (log 11). -/
def refuseCommand (isReceived : Bool) (s : State) : State :=
  match s.issuer with
  | .caller c => raise (.caller c) .illegalCommand s
  | .channel => if isReceived then raise .channel .illegalCommand s else s
  | .timer => if isReceived then raise .timer .illegalCommand s else s

/-- A caller-port command (30_encoding.md R165): refused off a caller port or with a reserved field that is not 0,
else its own effect, given the port. -/
def onCallerPort (legal : Bool) (s : State) (k : Nat → Step) : Step :=
  match s.issuer with
  | .caller c => if legal then k c else .next (raise (.caller c) .illegalCommand s)
  | .channel => .next (refuseCommand false s)
  | .timer => .next (refuseCommand false s)

/-! ## Slots -/

/-- X[k]. -/
def readSlot (k : BitVec 4) (s : State) : Except Fault Slot :=
  match s.slots[k.toNat]? with
  | none => .error .slotIndex
  | some x => .ok x

/-- X[k] <- x. -/
def writeSlot (k : BitVec 4) (x : Slot) (s : State) : State :=
  { s with slots := s.slots.set k.toNat x }

/-- LIFE in {ARMED, RESOLVED, TIMEDOUT}: the slot belongs to a transaction (10_state.md R45). -/
def Life.inTransaction : Life → Bool
  | .armed | .resolved | .timedOut => true
  | .released | .created => false

/-- X[k].REQ_VAL, read only while LIFE is not RELEASED (10_state.md R43). -/
def readReqVal (x : Slot) : Except Fault Value :=
  if x.life = .released then .error (.unspecifiedRead .reqVal) else .ok x.reqVal

/-- X[k].RPL_VAL, read only while RPL_VALID = 1 (10_state.md R43). -/
def readRplVal (x : Slot) : Except Fault Value :=
  if x.rplValid then .ok x.rplVal else .error (.unspecifiedRead .rplVal)

/-! ## The current transaction -/

/-- CUR_SLOT, never read while ST = IDLE (10_state.md R33). -/
def readCurSlot (s : State) : Except Fault (BitVec 4) :=
  if s.st = .idle then .error (.unspecifiedRead .curSlot) else .ok s.curSlot

/-- CUR_DEST, never read while ST = IDLE (10_state.md R34). -/
def readCurDest (s : State) : Except Fault LogicalAddr :=
  if s.st = .idle then .error (.unspecifiedRead .curDest) else .ok s.curDest

/-- OWNER, never read while ST = IDLE (10_state.md R35). -/
def readOwner (s : State) : Except Fault Nat :=
  if s.st = .idle then .error (.unspecifiedRead .owner) else .ok s.owner

/-- X[CUR_SLOT]. -/
def currentSlot (s : State) : Except Fault Slot :=
  match readCurSlot s with
  | .error f => .error f
  | .ok k => readSlot k s

/-- ST in {RESOLVED, TIMEDOUT, FAILED} (10_state.md R32). -/
def AdapterState.terminal : AdapterState → Bool
  | .resolved | .timedOut | .failed => true
  | .idle | .pending => false

/-! ## The registry -/

/-- REG[o]. -/
def readReg (o : Byte) (s : State) : RegEntry := s.reg[o.toNat]'o.isLt

/-- REG[o] <- e. -/
def writeReg (o : Byte) (e : RegEntry) (s : State) : State :=
  { s with reg := s.reg.set o.toNat e o.isLt }

/-- Lookup (41_registry.md R263): the whole entry when it is valid. -/
def lookupReg (o : Byte) (s : State) : Option RegEntry :=
  if (readReg o s).valid then some (readReg o s) else none

/-- REG[o].VAL, never read while VALID = 0 or RESPOND = 0 (10_state.md R46, 93_implementation_defined.md U3). -/
def readRegVal (e : RegEntry) : Except Fault Value :=
  if e.valid && e.respond then .ok e.val else .error (.unspecifiedRead .regVal)

/-- The free value in use, and the state in which it is used up (log 9). -/
def freshValue (s : State) : Value := Config.freeValue s.freeCount

/-- One more free value is used (log 9). -/
def useFree (s : State) : State := { s with freeCount := s.freeCount + 1 }

/-! ## Caller ports -/

/-- PHASE[c] <- p. -/
def setPhase (c : Nat) (p : Phase) (s : State) : State :=
  { s with ports := s.ports.modify c fun q => { q with phase := p } }

/-- LATCH[c] <- l and PHASE[c] <- ADMIT_WAIT (43_adapter.md R321). -/
def setAdmitWait (c : Nat) (l : Latch) (s : State) : State :=
  { s with ports := s.ports.modify c fun _ => { phase := .admitWait, latch := l } }

/-- LATCH[c], read only in ADMIT_WAIT (10_state.md R52). -/
def readLatch (q : CallerPort) : Except Fault Latch :=
  if q.phase = .admitWait then .ok q.latch else .error (.unspecifiedRead .latch)

/-! ## The codec scratch register -/

/-- CSCR.FAM, read only while CSCR.VALID = 1 (10_state.md R54, 93_implementation_defined.md U4). No command reads it. -/
def readCscrFam (s : State) : Except Fault Family :=
  if s.cscr.valid then .ok s.cscr.fam else .error (.unspecifiedRead .cscrFam)

/-- CSCR.VAL, read only while CSCR.VALID = 1 (10_state.md R54, 93_implementation_defined.md U4). No command reads it. -/
def readCscrVal (s : State) : Except Fault Value :=
  if s.cscr.valid then .ok s.cscr.val else .error (.unspecifiedRead .cscrVal)

/-! ## The frame buffer -/

/-- The bytes addr..addr+n-1 of a frame of length LEN: inside the buffer, and below LEN (20_memory.md R101, R104). -/
def inFrame (len addr n : Nat) : Except Fault Unit :=
  if frameMax < addr + n then .error .bufferIndex
  else if len < addr + n then .error .paramRegion
  else .ok ()

/-- MemRead(addr, n) on the frame buffer in use, a frame of length LEN (00_scope.md R12, 20_memory.md R101, R104). -/
def memRead (buf : FrameBuf) (len addr n : Nat) : Except Fault (List Byte) :=
  match inFrame len addr n with
  | .error f => .error f
  | .ok () => .ok ((buf.toList.drop addr).take n)

/-- The buffer's bytes with bs written from offset addr on. -/
def spliceBytes (buf : FrameBuf) (addr : Nat) (bs : List Byte) : FrameBuf :=
  Vector.mk ((List.range 15).map fun j =>
    if addr ≤ j ∧ j < addr + bs.length then bs.getD (j - addr) 0 else buf.toList.getD j 0).toArray (by simp)

/-- MemWrite(addr, n, v) with n = len(v) on the frame buffer in use, a frame of length LEN (00_scope.md R12, 20_memory.md R101,
R104). -/
def memWrite (buf : FrameBuf) (len addr : Nat) (bs : List Byte) : Except Fault FrameBuf :=
  match inFrame len addr bs.length with
  | .error f => .error f
  | .ok () => .ok (spliceBytes buf addr bs)

/-- The MemWrite of a codec: only the parameter region, offsets 1..LEN-1 (20_memory.md R101, R104, 40_frame_codec.md R200). -/
def paramWrite (buf : FrameBuf) (len addr : Nat) (bs : List Byte) : Except Fault FrameBuf :=
  if addr = 0 then .error .paramRegion else memWrite buf len addr bs

/-- Bytes addr..addr+n-1 of the bytes b that a codec was given: "reads exactly len bytes", and none past them (40_frame_codec.md
R201, 20_memory.md R104). -/
def paramRead (b : List Byte) (addr n : Nat) : Except Fault (List Byte) :=
  if addr + n ≤ b.length then .ok ((b.drop addr).take n) else .error .paramRegion

/-- A frame buffer of zeros: bytes that are not sent are 0 (10_state.md R48). -/
def zeroBuf : FrameBuf := Vector.replicate 15 0

/-- The transmit request of opcode o and parameters b to follower d: a frame of LEN = 1 + len(b) with b in its parameter region
and the opcode at byte 0, INIT = OWN_LA (10_state.md R48, 42_exchange.md R292, 43_adapter.md R329). -/
def buildTxReq (ownLa d : LogicalAddr) (o : Byte) (b : List Byte) : Except Fault TxReq :=
  match paramWrite zeroBuf (1 + b.length) 1 b with
  | .error f => .error f
  | .ok buf =>
    match memWrite buf (1 + b.length) 0 [o] with
    | .error f => .error f
    | .ok buf => .ok { init := ownLa, foll := d, len := BitVec.ofNat 4 (1 + b.length), data := buf }

/-- DATA[0..LEN-1] of a received unit (30_encoding.md R142). -/
def unitFrame (u : BusUnit) : Except Fault (List Byte) := memRead u.data u.len.toNat 0 u.len.toNat

end Sys2Proof.Machine
end

