-- ==== Sys2Proof/Machine/Operands.lean ====
section
/-! DEFINITION. The operands of the commands: flag bits and reserved-field checks (spec/30_encoding.md R157), the VALUE operand
and validValue (R158), and the same format in responses (R161). -/

namespace Sys2Proof.Machine

/-! ## Flag bits and reserved fields -/

/-- FLG[0] of EX_CREATE: ANS (R157). -/
def flgAns (h : Header) : Bool := h.flg.getLsbD 0

/-- FLG[1] of EX_CREATE: EXP_VALID (R157). -/
def flgExpValid (h : Header) : Bool := h.flg.getLsbD 1

/-- FLG[0] of ANNOUNCE: RESPOND (R157). -/
def flgRespond (h : Header) : Bool := h.flg.getLsbD 0

/-- FLG[1] of ANNOUNCE: BCAST (R157). -/
def flgBcast (h : Header) : Bool := h.flg.getLsbD 1

/-- FLG[3:2] = 0. -/
def flgHighZero (h : Header) : Bool := h.flg.extractLsb' 2 2 == 0

/-- EX_CREATE: LA and FLG[3:2] are 0, and OPC2 is 0 when FLG[1] = 0 (42_exchange.md R290). -/
def legalExCreate (h : Header) : Bool :=
  h.la == 0 && flgHighZero h && (flgExpValid h || h.opc2 == 0)

/-- EXCHANGE: OPC, OPC2 and FLG are 0 (43_adapter.md R321). -/
def legalExchange (h : Header) : Bool := h.opc == 0 && h.opc2 == 0 && h.flg == 0

/-- EX_READ: LA, OPC, OPC2 and FLG are 0 (42_exchange.md R291). -/
def legalExRead (h : Header) : Bool := h.la == 0 && h.opc == 0 && h.opc2 == 0 && h.flg == 0

/-- ANNOUNCE: LA, SLOT and FLG[3:2] are 0, and OPC2 and FLG[1] are 0 when FLG[0] = 0 (41_registry.md R260). -/
def legalAnnounce (h : Header) : Bool :=
  h.la == 0 && h.slot == 0 && flgHighZero h && (flgRespond h || (h.opc2 == 0 && !flgBcast h))

/-- REVOKE and LOOKUP: all but OPC are 0 (41_registry.md R261, R262). -/
def legalOpcodeOnly (h : Header) : Bool := h.la == 0 && h.opc2 == 0 && h.slot == 0 && h.flg == 0

/-- STATUS_READ and TICK: every field is 0 (44_status.md R390, 43_adapter.md R331). -/
def legalAllZero (h : Header) : Bool := h.la == 0 && h.opc == 0 && h.opc2 == 0 && h.slot == 0 && h.flg == 0

/-- CODEC_SER: LA, SLOT and FLG are 0 (40_frame_codec.md R223). -/
def legalCodecSer (h : Header) : Bool := h.la == 0 && h.slot == 0 && h.flg == 0

/-- CODEC_DES: LA, OPC2 and SLOT are 0 (40_frame_codec.md R224). -/
def legalCodecDes (h : Header) : Bool := h.la == 0 && h.opc2 == 0 && h.slot == 0

/-- RECEIVED: OPC, OPC2 and SLOT are 0 (43_adapter.md R326). -/
def legalReceived (h : Header) : Bool := h.opc == 0 && h.opc2 == 0 && h.slot == 0

/-- TX_DONE: LA, OPC, OPC2, SLOT and FLG[3:2] are 0 (30_encoding.md R157). -/
def legalTxDone (r : TxDoneRest) : Bool :=
  r.la == 0 && r.opc == 0 && r.opc2 == 0 && r.slot == 0 && r.flgHi == 0

/-! ## VALUE -/

/-- The value of a numeric VALUE operand whose bits above the low w are 0 (R158). -/
def narrow (w : Nat) (v : Word32) : Option (BitVec w) :=
  if v.toNat < 2 ^ w then some (v.setWidth w) else none

/-- The value a VALUE operand of family f spells, `none` when `validValue(f, operand)` fails (R158). -/
def operandValue (osdNameMax : Nat) : Family → Operand → Option Value
  | .empty, .none => some .empty
  | .version, .word v => (narrow 8 v).map .version
  | .physAddr, .word v => (narrow 16 v).map .physAddr
  | .vendorId, .word v => (narrow 24 v).map .vendorId
  | .powerStatus, .word v => (narrow 8 v).map .powerStatus
  | .uiKey, .word v => (narrow 8 v).map .uiKey
  | .language, .bytes [b0, b1, b2] => some (.language b0 b1 b2)
  | .osdName, .bytes b => if b.length ≤ osdNameMax then some (.osdName b) else none
  | .raw, .bytes b => if b.length ≤ paramMax then some (.raw b) else none
  | _, _ => none

/-- A byte sequence in the VALUE format: L, then the L bytes (R158). -/
def countedBytes (b : List Byte) : List Byte := BitVec.ofNat 8 b.length :: b

/-- A value in the VALUE format, as a response carries it (R158, R161). -/
def valueBytes : Value → List Byte
  | .empty => []
  | .version v => be 4 v.toNat
  | .physAddr v => be 4 v.toNat
  | .vendorId v => be 4 v.toNat
  | .language b0 b1 b2 => countedBytes [b0, b1, b2]
  | .osdName b => countedBytes b
  | .powerStatus v => be 4 v.toNat
  | .uiKey v => be 4 v.toNat
  | .raw b => countedBytes b

end Sys2Proof.Machine
end

