-- ==== Sys2Proof/Machine/Flags.lean ====
section
/-! DEFINITION. The block has no flags or condition codes (spec/10_state.md R56); the status bits a program reads are views of the
registers. Here are their encodings (R32, R37, R44), the result codes (30_encoding.md R163), the INFO layouts (R162,
44_status.md R390) and the bytes of a response (R161). -/

namespace Sys2Proof.Machine

/-- The code of ST (10_state.md R32). -/
def AdapterState.code : AdapterState → BitVec 3
  | .idle => 0
  | .pending => 1
  | .resolved => 2
  | .timedOut => 3
  | .failed => 4

/-- The code of TX_X_RESULT (10_state.md R37). -/
def TxResult.code : TxResult → BitVec 2
  | .notYet => 0
  | .ok => 1
  | .fail => 2

/-- The code of LIFE, zero-extended to INFO[3:0] (10_state.md R44, 42_exchange.md R291). -/
def Life.code : Life → BitVec 4
  | .released => 0
  | .created => 1
  | .armed => 2
  | .resolved => 3
  | .timedOut => 4

/-- The result codes (30_encoding.md R163). -/
def Result.code : Result → Byte
  | .none => 0x00
  | .unavailable => 0x01
  | .timedOut => 0x02
  | .busy => 0x03
  | .payloadTooLarge => 0x04
  | .alreadyRegistered => 0x05
  | .notFound => 0x06
  | .unexpectedPayload => 0x07
  | .malformedPayload => 0x08
  | .illegalState => 0x09
  | .illegalCommand => 0x0A
  | .badSlot => 0x0B
  | .badValue => 0x0C

/-- RESPW: RESULT in bits 31:24, INFO in 23:0 (30_encoding.md R161). -/
def respw (r : Response) : Word32 := r.result.code ++ r.info

/-- The bytes of a response (30_encoding.md R161). -/
def responseBytes (r : Response) : List Byte := be 4 (respw r).toNat ++ r.tail

/-- A 1-bit field. -/
def bit (b : Bool) : BitVec 1 := BitVec.ofBool b

/-- INFO of EX_READ (42_exchange.md R291). -/
def exReadInfo (x : Slot) : BitVec 24 :=
  x.reqOpc ++ x.expOpc ++ (0 : BitVec 1) ++ bit x.rplValid ++ bit x.expValid ++ bit x.ans ++ x.life.code

/-- INFO of a LOOKUP that finds e for opcode o (41_registry.md R262). -/
def lookupInfo (o : Byte) (e : RegEntry) : BitVec 24 :=
  o ++ e.rplOpc ++ (0 : BitVec 6) ++ bit e.bcast ++ bit e.respond

/-- INFO of CODEC_SER (40_frame_codec.md R223). -/
def codecSerInfo (ok : Bool) (n : Nat) : BitVec 24 :=
  (0 : BitVec 12) ++ BitVec.ofNat 4 n ++ (0 : BitVec 7) ++ bit ok

/-- INFO of a CODEC_DES that succeeds (40_frame_codec.md R224). -/
def codecDesInfo (f : Family) : BitVec 24 := (0 : BitVec 20) ++ f.code

/-- INFO of RECEIVED: consumedLength (43_adapter.md R330). -/
def receivedInfo (len : Nat) : BitVec 24 := (0 : BitVec 20) ++ BitVec.ofNat 4 len

/-- INFO of the EXCHANGE response at RETURN (43_adapter.md R333). -/
def returnInfo (rplValid : Bool) : BitVec 24 := (0 : BitVec 23) ++ bit rplValid

/-- CUR_DEST as STATUS_READ shows it: 0 while ST = IDLE (44_status.md R390). -/
def statusDest (s : State) : BitVec 4 := if s.st = .idle then 0 else s.curDest

/-- CUR_SLOT as STATUS_READ shows it: 0 while ST = IDLE (44_status.md R390). -/
def statusSlot (s : State) : BitVec 4 := if s.st = .idle then 0 else s.curSlot

/-- INFO of STATUS_READ (44_status.md R390), bit 23 first. -/
def statusInfo (s : State) : BitVec 24 :=
  BitVec.ofNat 4 (min s.txa.length 15) ++ (0 : BitVec 1) ++ s.txXResult.code ++ bit s.regConflict ++ bit s.inboundSink
    ++ bit s.replySink ++ bit s.timerRun ++ bit s.txx.isSome ++ statusSlot s ++ statusDest s ++ bit s.curValid ++ s.st.code

end Sys2Proof.Machine
end

