-- ==== Sys2Proof/Machine/Codec.lean ====
section
/-! DEFINITION. The frame codec (spec/40_frame_codec.md): Serialize and Deserialize (R200 to R220) and the codec test port
commands CODEC_SER (R223) and CODEC_DES (R224). -/

namespace Sys2Proof.Machine

/-- `enc(f, v)`; the value's constructor is its family (R202 to R218, log 15). -/
def encValue : Value → List Byte
  | .empty => []
  | .version v => be 1 v.toNat
  | .physAddr v => be 2 v.toNat
  | .vendorId v => be 3 v.toNat
  | .language b0 b1 b2 => [b0, b1, b2]
  | .osdName b => b
  | .powerStatus v => be 1 v.toNat
  | .uiKey v => be 1 v.toNat
  | .raw b => b

/-- The number that the first w bytes of b spell, most significant first (00_scope.md R10). -/
def decNumber (w : Nat) (b : List Byte) : Except Fault Nat := (paramRead b 0 w).map unbe

/-- `dec(f, b)`, used after the length check (R203 to R219). Every byte is read with `paramRead`: a read past the bytes the codec
was given faults (20_memory.md R104, 60_exceptions.md R403). -/
def decValue (f : Family) (b : List Byte) : Except Fault Value :=
  match f with
  | .empty => .ok .empty
  | .version => (decNumber 1 b).map fun n => .version (BitVec.ofNat 8 n)
  | .physAddr => (decNumber 2 b).map fun n => .physAddr (BitVec.ofNat 16 n)
  | .vendorId => (decNumber 3 b).map fun n => .vendorId (BitVec.ofNat 24 n)
  | .language =>
    match paramRead b 0 3 with
    | .ok [b0, b1, b2] => .ok (.language b0 b1 b2)
    | .ok _ => .error .paramRegion
    | .error f => .error f
  | .osdName => (paramRead b 0 b.length).map .osdName
  | .powerStatus => (decNumber 1 b).map fun n => .powerStatus (BitVec.ofNat 8 n)
  | .uiKey => (decNumber 1 b).map fun n => .uiKey (BitVec.ofNat 8 n)
  | .raw => (paramRead b 0 b.length).map .raw

/-- Serialize (R200): the bytes when ok = 1, `none` ("nothing written") when ok = 0; n is the number of bytes. -/
def serialize (v : Value) (maxOutLen : Nat) : Option (List Byte) :=
  let bytes := encValue v
  if min maxOutLen paramMax < bytes.length then none
  else if 0 < bytes.length ∨ v.family.emptyOk then some bytes
  else none

/-- The length check of Deserialize (R201, R222). -/
def lengthOk (f : Family) (len : Nat) : Bool :=
  match f.width with
  | some w => len == w
  | none => len ≤ paramMax

/-- Deserialize (R201): the value when ok = 1, `none` when ok = 0. -/
def deserialize (f : Family) (b : List Byte) : Except Fault (Option Value) :=
  if lengthOk f b.length then (decValue f b).map some else .ok none

/-- CODEC_SER (R223). -/
def execCodecSer (h : Header) (v : Operand) (s : State) : Step :=
  onCallerPort (legalCodecSer h) s fun c =>
    match operandValue s.config.osdNameMax (s.config.family h.opc) v with
    | none => .next (raise (.caller c) .badValue s)
    | some val =>
      match serialize val h.opc2.toNat with
      | none => .next (respond (.caller c) { result := .none, info := codecSerInfo false 0, tail := [] } s)
      | some b => .next (respond (.caller c) { result := .none, info := codecSerInfo true b.length, tail := b } s)

/-- CODEC_DES (R224). -/
def execCodecDes (h : Header) (b : List Byte) (s : State) : Step :=
  onCallerPort (legalCodecDes h) s fun c =>
    orFault (deserialize (s.config.family h.opc) b) fun
    | none => .next (raise (.caller c) .malformedPayload s)
    | some val =>
      .next (respond (.caller c)
        { result := .none, info := codecDesInfo (s.config.family h.opc), tail := valueBytes val }
        { s with cscr := { valid := true, fam := s.config.family h.opc, val := val } })

end Sys2Proof.Machine
end

