-- ==== Sys2Proof/Machine/Exchange.lean ====
section
/-! DEFINITION. Exchanges (spec/42_exchange.md): EX_CREATE (R290), EX_READ (R291), and the internal operations Prepare (R292),
Complete (R293) and AnswerExpected (R294). -/

namespace Sys2Proof.Machine

/-- The slot EX_CREATE writes over x: every field but DEST and RPL_VAL (R290). -/
def createdSlot (h : Header) (val : Value) (x : Slot) : Slot :=
  { x with
    life := .created
    reqOpc := h.opc
    expValid := flgExpValid h
    expOpc := if flgExpValid h then h.opc2 else 0
    ans := flgAns h
    reqVal := val
    rplValid := false }

/-- EX_CREATE (R290). -/
def execExCreate (h : Header) (v : Operand) (s : State) : Step :=
  onCallerPort (legalExCreate h) s fun c =>
    if s.config.nx ≤ h.slot.toNat then .next (raise (.caller c) .badSlot s)
    else
      orFault (readSlot h.slot s) fun x =>
        if x.life.inTransaction then .next (raise (.caller c) .illegalState s)
        else
          match operandValue s.config.osdNameMax (s.config.family h.opc) v with
          | none => .next (raise (.caller c) .badValue s)
          | some val => .next (respondOk (.caller c) (writeSlot h.slot (createdSlot h val x) s))

/-- Answer with INFO and, when RPL_VALID = 1, the slot's decoded reply in the VALUE format (R291, 43_adapter.md R333). -/
def respondReply (p : Port) (e : Result) (info : BitVec 24) (x : Slot) (s : State) : Step :=
  if x.rplValid then
    orFault (readRplVal x) fun val => .next (respond p { result := e, info := info, tail := valueBytes val } s)
  else .next (respond p { result := e, info := info, tail := [] } s)

/-- EX_READ (R291). -/
def execExRead (h : Header) (s : State) : Step :=
  onCallerPort (legalExRead h) s fun c =>
    if s.config.nx ≤ h.slot.toNat then .next (raise (.caller c) .badSlot s)
    else orFault (readSlot h.slot s) fun x => respondReply (.caller c) .none (exReadInfo x) x s

/-- Prepare (R292): the transmit request of slot x to destination d; `none` is ERROR_PAYLOAD_TOO_LARGE. -/
def prepare (ownLa d : LogicalAddr) (x : Slot) : Except Fault (Option TxReq) :=
  match readReqVal x with
  | .error f => .error f
  | .ok v =>
    match serialize v paramMax with
    | none => .ok none
    | some b =>
      match buildTxReq ownLa d x.reqOpc b with
      | .error f => .error f
      | .ok r => .ok (some r)

/-- Complete (R293) on the frame [o] ++ p: the slot with the decoded reply, or why the frame is noise. -/
def complete (catalog : List (Byte × Family)) (x : Slot) (o : Byte) (p : List Byte) : Except Fault (Except Result Slot) :=
  if x.expValid = false then .ok (.error .unexpectedPayload)
  else if o ≠ x.expOpc then .ok (.error .unexpectedPayload)
  else
    match deserialize (catalogFamily catalog x.expOpc) p with
    | .error f => .error f
    | .ok none => .ok (.error .malformedPayload)
    | .ok (some v) => .ok (.ok { x with rplVal := v, rplValid := true })

/-- AnswerExpected (R294). -/
def answerExpected (x : Slot) : Bool := x.ans

end Sys2Proof.Machine
end

