-- ==== Sys2Proof/Machine/Adapter.lean ====
section
/-! DEFINITION. The adapter (spec/43_adapter.md): EXCHANGE (R321), ARM and ADMIT (R322), TX_DONE (R323, R324), RECEIVED (R326 to
R330), TICK (R331), TIMEOUT (R332) and RETURN (R333, R334). -/

namespace Sys2Proof.Machine

/-! ## Outbound transaction -/

/-- The bookkeeping of ARM once Prepare has given r (R322). -/
def armed (c : Nat) (d : LogicalAddr) (k : BitVec 4) (w : Word32) (x : Slot) (r : TxReq) (s : State) : State :=
  setPhase c .txnWait
    (writeSlot k { x with dest := d, life := .armed, rplValid := false }
      { s with
        curValid := true
        curSlot := k
        curDest := d
        owner := c
        st := .pending
        waitMs := w
        elapsed := 0
        timerRun := false
        txx := some r
        txXResult := .notYet
        replySink := true })

/-- ARM(c, d, k, w) (R322), taken while ST = IDLE. -/
def arm (c : Nat) (d : LogicalAddr) (k : BitVec 4) (w : Word32) (s : State) : Step :=
  orFault (readSlot k s) fun x =>
    if x.life ≠ .created then .next (raise (.caller c) .illegalState (setPhase c .ready s))
    else
      orFault (prepare s.config.ownLa d x) fun
        | none => .next (raise (.caller c) .payloadTooLarge (setPhase c .ready s))
        | some r => .next (armed c d k w x r s)

/-- EXCHANGE, the issue step (R321). -/
def execExchange (h : Header) (wait : Word32) (s : State) : Step :=
  onCallerPort (legalExchange h) s fun c =>
    if s.config.nx ≤ h.slot.toNat then .next (raise (.caller c) .badSlot s)
    else if s.st = .idle then arm c h.la h.slot wait s
    else
      match s.config.busyPolicy with
      | .failFast => .next (raise (.caller c) .busy s)
      | .block => .next (setAdmitWait c { dest := h.la, slot := h.slot, wait := wait } s)

/-- ADMIT(c) (R322): ARM with the latched operands; q is port c, in ADMIT_WAIT, and ST = IDLE. -/
def admitStep (c : Nat) (q : CallerPort) (s : State) : Step :=
  orFault (readLatch q) fun l => arm c l.dest l.slot l.wait s

/-! ## Transmit completion -/

/-- A terminal transition to state e: CUR_VALID and TIMER_RUN are cleared (R323, R328, R332, 10_state.md R33, R36). -/
def endTransaction (e : AdapterState) (s : State) : State :=
  { s with st := e, curValid := false, timerRun := false }

/-- TX_DONE, tag X (R323). With no transmit request pending the channel has no such move and it is ignored (log 12). -/
def txDoneX (ok : Bool) (s : State) : Step :=
  if s.txx = none then .next s
  else
    let s1 := { s with txx := none, txXResult := if ok then .ok else .fail }
    if s.st ≠ .pending then .next s1
    else if ok = false then .next (endTransaction .failed s1)
    else
      orFault (readCurSlot s1) fun k =>
        orFault (readSlot k s1) fun x =>
          if answerExpected x then .next { s1 with timerRun := true }
          else .next (writeSlot k { x with life := .resolved } (endTransaction .resolved s1))

/-- TX_DONE, tag A (R324): the head of TXA goes, whatever the result. With TXA empty it is ignored (log 12). -/
def txDoneA (s : State) : Step := .next { s with txa := s.txa.tail }

/-- A TX_DONE command: refused off the channel port, without effect when a reserved field is not 0 (44_status.md R391). -/
def onChannelTxDone (r : TxDoneRest) (s : State) (k : Step) : Step :=
  match s.issuer with
  | .channel => if legalTxDone r then k else .next (refuseCommand false s)
  | .caller _ => .next (refuseCommand false s)
  | .timer => .next (refuseCommand false s)

/-- TX_DONE X, failure (R323). -/
def execTxDoneXFail (r : TxDoneRest) (s : State) : Step := onChannelTxDone r s (txDoneX false s)

/-- TX_DONE X, success (R323). -/
def execTxDoneXOk (r : TxDoneRest) (s : State) : Step := onChannelTxDone r s (txDoneX true s)

/-- TX_DONE A, failure (R324): the result is ignored. -/
def execTxDoneAFail (r : TxDoneRest) (s : State) : Step := onChannelTxDone r s (txDoneA s)

/-- TX_DONE A, success (R324). -/
def execTxDoneAOk (r : TxDoneRest) (s : State) : Step := onChannelTxDone r s (txDoneA s)

/-! ## Reception -/

/-- Correlates(i) (R327). -/
def correlates (i : LogicalAddr) (s : State) : Except Fault Bool :=
  if s.st ≠ .pending then .ok false
  else
    match currentSlot s with
    | .error f => .error f
    | .ok x =>
      match readCurDest s with
      | .error f => .error f
      | .ok d => .ok (answerExpected x && (i == d || i == broadcast))

/-- The push of an auto-reply with opcode o and parameters p to follower d; dropped when TXA is full (R329). -/
def pushReply (d : LogicalAddr) (o : Byte) (p : List Byte) (s : State) : Except Fault State :=
  if s.txa.length = s.config.txaDepth then .ok s
  else
    match buildTxReq s.config.ownLa d o p with
    | .error f => .error f
    | .ok r => .ok { s with txa := s.txa ++ [r] }

/-- Inbound(i, b, len) for a frame whose opcode is o (R329). The parameters are not looked at. -/
def inbound (i : LogicalAddr) (o : Byte) (s : State) : Except Fault State :=
  match lookupReg o s with
  | none => .ok s
  | some e =>
    if e.respond = false then .ok s
    else
      match readRegVal e with
      | .error f => .error f
      | .ok v =>
        match serialize v paramMax with
        | none => .ok s
        | some p => pushReply (if e.bcast then broadcast else i) e.rplOpc p s

/-- The inbound path, then the RECEIVED response (R326, R329). -/
def inboundAndRespond (p : Port) (i : LogicalAddr) (o : Byte) (len : Nat) (s : State) : Step :=
  orFault (inbound i o s) fun s' => .next (respond p { result := .none, info := receivedInfo len, tail := [] } s')

/-- Reply consumption (R328): the transaction in slot k resolves with the completed slot x'. -/
def resolveReply (k : BitVec 4) (x' : Slot) (s : State) : State :=
  writeSlot k { x' with life := .resolved } (endTransaction .resolved s)

/-- RECEIVED (R326), from initiator i with frame b, answered on port p. -/
def receive (p : Port) (i : LogicalAddr) (b : List Byte) (s : State) : Step :=
  match b with
  | [] => .next (respond p { result := .none, info := receivedInfo 0, tail := [] } s)
  | o :: params =>
    orFault (correlates i s) fun cor =>
      if cor then
        orFault (readCurSlot s) fun k =>
          orFault (readSlot k s) fun x =>
            orFault (complete s.config.catalog x o params) fun
            | .ok x' =>
              .next (respond p { result := .none, info := receivedInfo b.length, tail := [] } (resolveReply k x' s))
            | .error _ => inboundAndRespond p i o b.length s
      else inboundAndRespond p i o b.length s

/-- RECEIVED as a command (R326): refused off the channel port or with a reserved field that is not 0 (44_status.md R391). -/
def execReceived (h : Header) (b : List Byte) (s : State) : Step :=
  match s.issuer with
  | .channel => if legalReceived h then receive .channel h.la b s else .next (refuseCommand true s)
  | .caller _ => .next (refuseCommand true s)
  | .timer => .next (refuseCommand true s)

/-! ## Timer -/

/-- The effect of a tick (R331). -/
def tick (s : State) : State :=
  if s.timerRun && s.st == .pending && s.elapsed.ult s.waitMs then { s with elapsed := s.elapsed + 1 } else s

/-- TICK (R331): refused off the timer port, without effect when a reserved field is not 0 (44_status.md R391). -/
def execTick (h : Header) (s : State) : Step :=
  match s.issuer with
  | .timer => if legalAllZero h then .next (tick s) else .next (refuseCommand false s)
  | .caller _ => .next (refuseCommand false s)
  | .channel => .next (refuseCommand false s)

/-- TIMEOUT is enabled (R332). -/
def timeoutEnabled (s : State) : Bool := s.st == .pending && s.timerRun && s.waitMs.ule s.elapsed

/-- TIMEOUT (R332), taken when enabled. -/
def timeoutStep (s : State) : Step :=
  orFault (readCurSlot s) fun k =>
    orFault (readSlot k s) fun x =>
      .next (writeSlot k { x with life := .timedOut } (endTransaction .timedOut s))

/-! ## Completion -/

/-- Combine (R334); `none` where the table lists no result (log 16). -/
def combine : TxResult → AdapterState → Option Result
  | .fail, .failed => some .unavailable
  | .fail, .resolved => some .unavailable
  | .ok, .resolved => some .none
  | .ok, .timedOut => some .timedOut
  | _, _ => none

/-- RETURN of port c is enabled (R333); c is in TXN_WAIT. -/
def returnEnabled (c : Nat) (s : State) : Except Fault Bool :=
  if s.st.terminal && s.txx.isNone then (readOwner s).map fun o => o == c else .ok false

/-- The block after RETURN of port c from slot k, before its response (R333). -/
def returned (c : Nat) (k : BitVec 4) (x : Slot) (s : State) : State :=
  setPhase c .ready
    (writeSlot k { x with life := .released }
      { s with replySink := false, timerRun := false, txXResult := .notYet, st := .idle })

/-- RETURN of port c (R333), taken when enabled: the EXCHANGE response, and the slot, the adapter and the port are free. -/
def returnStep (c : Nat) (s : State) : Step :=
  orFault (readCurSlot s) fun k =>
    orFault (readSlot k s) fun x =>
      match combine s.txXResult s.st with
      | none => .fault .noCombination
      | some res => respondReply (.caller c) res (returnInfo x.rplValid) x (returned c k x s)

end Sys2Proof.Machine
end

