-- ==== Sys2Proof/Machine/Frames.lean ====
section
/-! DEFINITION. The CEC frames: the meaning of a catalog opcode is the frame of that opcode handed to the block by the channel,
Received(initiator, length, data) (spec/30_encoding.md R142, R153, 43_adapter.md R326; log 7). No rule depends on a
particular opcode value (41_registry.md R265): CATALOG gives the payload family, the registry the answer. -/

namespace Sys2Proof.Machine

/-- The frame [o] ++ p arrives from the initiator of the unit being delivered (30_encoding.md R142, 43_adapter.md R326). -/
def receiveFrame (o : Byte) (p : List Byte) (s : State) : Step := receive .channel s.rxInit (o :: p) s

/-- GET_CEC_VERSION, opcode 0x9F (R153). -/
def execGetCecVersion (p : List Byte) (s : State) : Step := receiveFrame 0x9F p s

/-- CEC_VERSION, opcode 0x9E (R153). -/
def execCecVersion (p : List Byte) (s : State) : Step := receiveFrame 0x9E p s

/-- GIVE_PHYSICAL_ADDR, opcode 0x83 (R153). -/
def execGivePhysicalAddr (p : List Byte) (s : State) : Step := receiveFrame 0x83 p s

/-- REPORT_PHYSICAL_ADDR, opcode 0x84 (R153). -/
def execReportPhysicalAddr (p : List Byte) (s : State) : Step := receiveFrame 0x84 p s

/-- STANDBY, opcode 0x36 (R153). -/
def execStandby (p : List Byte) (s : State) : Step := receiveFrame 0x36 p s

/-- GIVE_OSD_NAME, opcode 0x46 (R153). -/
def execGiveOsdName (p : List Byte) (s : State) : Step := receiveFrame 0x46 p s

/-- SET_OSD_NAME, opcode 0x47 (R153). -/
def execSetOsdName (p : List Byte) (s : State) : Step := receiveFrame 0x47 p s

/-- GIVE_DEVICE_VENDOR_ID, opcode 0x8C (R153). -/
def execGiveDeviceVendorId (p : List Byte) (s : State) : Step := receiveFrame 0x8C p s

/-- DEVICE_VENDOR_ID, opcode 0x87 (R153). -/
def execDeviceVendorId (p : List Byte) (s : State) : Step := receiveFrame 0x87 p s

/-- GET_MENU_LANGUAGE, opcode 0x91 (R153). -/
def execGetMenuLanguage (p : List Byte) (s : State) : Step := receiveFrame 0x91 p s

/-- SET_MENU_LANGUAGE, opcode 0x32 (R153). -/
def execSetMenuLanguage (p : List Byte) (s : State) : Step := receiveFrame 0x32 p s

/-- GIVE_DEVICE_POWER_STATUS, opcode 0x8F (R153). -/
def execGiveDevicePowerStatus (p : List Byte) (s : State) : Step := receiveFrame 0x8F p s

/-- REPORT_POWER_STATUS, opcode 0x90 (R153). -/
def execReportPowerStatus (p : List Byte) (s : State) : Step := receiveFrame 0x90 p s

/-- USER_CONTROL_PRESSED, opcode 0x44 (R153). -/
def execUserControlPressed (p : List Byte) (s : State) : Step := receiveFrame 0x44 p s

/-- USER_CONTROL_RELEASED, opcode 0x45 (R153). -/
def execUserControlReleased (p : List Byte) (s : State) : Step := receiveFrame 0x45 p s

/-- Any other opcode (R153, R166). -/
def execOtherOpcode (o : Byte) (p : List Byte) (s : State) : Step := receiveFrame o p s

end Sys2Proof.Machine
end

