-- ==== Sys2Proof/Machine/Registry.lean ====
section
/-! DEFINITION. The handler registry commands (spec/41_registry.md): ANNOUNCE (R260), REVOKE (R261), LOOKUP (R262). -/

namespace Sys2Proof.Machine

/-- The handler ANNOUNCE inserts with RESPOND = 1 (R260). -/
def answeringEntry (h : Header) (val : Value) : RegEntry where
  valid := true
  respond := true
  bcast := flgBcast h
  rplOpc := h.opc2
  val := val

/-- The handler ANNOUNCE inserts with RESPOND = 0: RPL_OPC is 0 and VAL is unspecified, the free value v (R260, log 9). -/
def silentEntry (h : Header) (v : Value) : RegEntry where
  valid := true
  respond := false
  bcast := flgBcast h
  rplOpc := 0
  val := v

/-- The entry REVOKE leaves: all 0, VAL unspecified, the free value v (R261, log 9). -/
def revokedEntry (v : Value) : RegEntry where
  valid := false
  respond := false
  bcast := false
  rplOpc := 0
  val := v

/-- The conflict answer of ANNOUNCE (R260, 60_exceptions.md R417): REG_CONFLICT is set and no entry changes. -/
def announceConflict (c : Nat) (s : State) : Step :=
  .next (raise (.caller c) .alreadyRegistered { s with regConflict := true })

/-- ANNOUNCE (R260): fields, then value, then the atomic test-and-insert on the registry (60_exceptions.md R407,
20_memory.md R118). With RESPOND = 0 the insert uses a free value for VAL (log 9). -/
def execAnnounce (h : Header) (v : Operand) (s : State) : Step :=
  onCallerPort (legalAnnounce h) s fun c =>
    if flgRespond h then
      match operandValue s.config.osdNameMax (s.config.family h.opc2) v with
      | none => .next (raise (.caller c) .badValue s)
      | some val =>
        if (readReg h.opc s).valid then announceConflict c s
        else .next (respondOk (.caller c) (writeReg h.opc (answeringEntry h val) s))
    else if (readReg h.opc s).valid then announceConflict c s
    else .next (respondOk (.caller c) (writeReg h.opc (silentEntry h (freshValue s)) (useFree s)))

/-- REVOKE (R261). -/
def execRevoke (h : Header) (s : State) : Step :=
  onCallerPort (legalOpcodeOnly h) s fun c =>
    if (readReg h.opc s).valid then
      .next (respondOk (.caller c) (writeReg h.opc (revokedEntry (freshValue s)) (useFree s)))
    else .next (raise (.caller c) .notFound s)

/-- LOOKUP (R262). -/
def execLookup (h : Header) (s : State) : Step :=
  onCallerPort (legalOpcodeOnly h) s fun c =>
    match lookupReg h.opc s with
    | none => .next (raise (.caller c) .notFound s)
    | some e =>
      if e.respond then
        orFault (readRegVal e) fun val =>
          .next (respond (.caller c) { result := .none, info := lookupInfo h.opc e, tail := valueBytes val } s)
      else .next (respond (.caller c) { result := .none, info := lookupInfo h.opc e, tail := [] } s)

end Sys2Proof.Machine
end

