-- ==== Sys2Proof/Machine/Status.lean ====
section
/-! DEFINITION. STATUS_READ (spec/44_status.md R390) and the reserved OPs (R391). -/

namespace Sys2Proof.Machine

/-- STATUS_READ (R390). -/
def execStatusRead (h : Header) (s : State) : Step :=
  onCallerPort (legalAllZero h) s fun c =>
    .next (respond (.caller c) { result := .none, info := statusInfo s, tail := [] } s)

/-- OP 0x0 (R391): refused. -/
def execReserved0 (_h : Header) (s : State) : Step := .next (refuseCommand false s)

/-- OP 0xD (R391): refused. -/
def execReservedD (_h : Header) (s : State) : Step := .next (refuseCommand false s)

/-- OP 0xE (R391): refused. -/
def execReservedE (_h : Header) (s : State) : Step := .next (refuseCommand false s)

/-- OP 0xF (R391): refused. -/
def execReservedF (_h : Header) (s : State) : Step := .next (refuseCommand false s)

end Sys2Proof.Machine
end

