-- ==== Sys2Proof/Machine/Dispatch.lean ====
section
/-! DEFINITION. One arm per instruction: which meaning it has. -/

namespace Sys2Proof.Machine

def exec (i : Instr) (s : State) : Host.Outcome State Fault Refusal :=
  match i with
  | .exCreate h v => Sys2Proof.Machine.execExCreate h v s
  | .exchange h w => Sys2Proof.Machine.execExchange h w s
  | .exRead h => Sys2Proof.Machine.execExRead h s
  | .announce h v => Sys2Proof.Machine.execAnnounce h v s
  | .revoke h => Sys2Proof.Machine.execRevoke h s
  | .lookup h => Sys2Proof.Machine.execLookup h s
  | .statusRead h => Sys2Proof.Machine.execStatusRead h s
  | .codecSer h v => Sys2Proof.Machine.execCodecSer h v s
  | .codecDes h b => Sys2Proof.Machine.execCodecDes h b s
  | .received h b => Sys2Proof.Machine.execReceived h b s
  | .txDoneXFail r => Sys2Proof.Machine.execTxDoneXFail r s
  | .txDoneXOk r => Sys2Proof.Machine.execTxDoneXOk r s
  | .txDoneAFail r => Sys2Proof.Machine.execTxDoneAFail r s
  | .txDoneAOk r => Sys2Proof.Machine.execTxDoneAOk r s
  | .tick h => Sys2Proof.Machine.execTick h s
  | .reserved0 h => Sys2Proof.Machine.execReserved0 h s
  | .reservedD h => Sys2Proof.Machine.execReservedD h s
  | .reservedE h => Sys2Proof.Machine.execReservedE h s
  | .reservedF h => Sys2Proof.Machine.execReservedF h s
  | .getCecVersion p => Sys2Proof.Machine.execGetCecVersion p s
  | .cecVersion p => Sys2Proof.Machine.execCecVersion p s
  | .givePhysicalAddr p => Sys2Proof.Machine.execGivePhysicalAddr p s
  | .reportPhysicalAddr p => Sys2Proof.Machine.execReportPhysicalAddr p s
  | .standby p => Sys2Proof.Machine.execStandby p s
  | .giveOsdName p => Sys2Proof.Machine.execGiveOsdName p s
  | .setOsdName p => Sys2Proof.Machine.execSetOsdName p s
  | .giveDeviceVendorId p => Sys2Proof.Machine.execGiveDeviceVendorId p s
  | .deviceVendorId p => Sys2Proof.Machine.execDeviceVendorId p s
  | .getMenuLanguage p => Sys2Proof.Machine.execGetMenuLanguage p s
  | .setMenuLanguage p => Sys2Proof.Machine.execSetMenuLanguage p s
  | .giveDevicePowerStatus p => Sys2Proof.Machine.execGiveDevicePowerStatus p s
  | .reportPowerStatus p => Sys2Proof.Machine.execReportPowerStatus p s
  | .userControlPressed p => Sys2Proof.Machine.execUserControlPressed p s
  | .userControlReleased p => Sys2Proof.Machine.execUserControlReleased p s
  | .otherOpcode o p => Sys2Proof.Machine.execOtherOpcode o p s

end Sys2Proof.Machine
end

