-- ==== Sys2Proof/Machine/Agents.lean ====
section
/-! DEFINITION. The steps of the agents (spec/00_scope.md R6, 43_adapter.md R320): taking the next command off a port's bytes,
delivering a unit, ADMIT, RETURN, TIMEOUT, reset, and the choice the schedule makes among them (log 2, 3). -/

namespace Sys2Proof.Machine

/-- Put back what is left of a port's bytes after a command was taken. -/
def setPortBytes (p : Port) (rest : List Byte) (s : State) : State :=
  match p with
  | .caller c => { s with env := { s.env with callerIn := s.env.callerIn.set c rest } }
  | .channel => { s with env := { s.env with channelIn := rest } }
  | .timer => { s with env := { s.env with timerIn := rest } }

/-- The bytes a port presents (log 2). -/
def portBytes (p : Port) (s : State) : List Byte :=
  match p with
  | .caller c => s.env.callerIn.getD c []
  | .channel => s.env.channelIn
  | .timer => s.env.timerIn

/-- The state in which the command taken off port p runs: its bytes are consumed and p is the issuer (log 6). -/
def issueFrom (p : Port) (rest : List Byte) (s : State) : State :=
  { setPortBytes p rest s with issuer := p }

/-- Take the next command off a port and run it. Bytes that make no whole command yet are left: the port holds (log 4). -/
def commandStep (p : Port) (s : State) : Step :=
  match decodeCommand s.config.catalog (portBytes p s) with
  | .error _ => .next s
  | .ok (i, rest) => exec i (issueFrom p rest s)

/-- The next step of caller port c: a command when READY, ADMIT when in ADMIT_WAIT, RETURN when in TXN_WAIT; a step that is not
enabled is a hold (43_adapter.md R320, log 3). A number that is no port of the block takes no step (log 20). -/
def callerStep (c : Nat) (s : State) : Step :=
  match s.ports[c]? with
  | none => .next s
  | some q =>
    match q.phase with
    | .ready => commandStep (.caller c) s
    | .admitWait => if s.st = .idle then admitStep c q s else .next s
    | .txnWait => orFault (returnEnabled c s) fun enabled => if enabled then returnStep c s else .next s

/-- The state in which a delivered unit's frame runs: it has left the queue and its INIT is latched (log 6). -/
def deliverFrom (u : BusUnit) (rest : List BusUnit) (s : State) : State :=
  { s with env := { s.env with inbound := rest }, rxInit := u.init, issuer := .channel }

/-- The channel hands over the next unit (30_encoding.md R142): a frame runs as the instruction of its opcode; a unit of length 0,
a footer, has no effect and is answered with consumedLength 0 (43_adapter.md R326, R330). -/
def deliverStep (s : State) : Step :=
  match s.env.inbound with
  | [] => .next s
  | u :: rest =>
    orFault (unitFrame u) fun b =>
      match decodeFrame b with
      | .error _ => receive .channel u.init [] (deliverFrom u rest s)
      | .ok i => exec i (deliverFrom u rest s)

/-- TIMEOUT when it is enabled, else a hold (43_adapter.md R332, log 3). -/
def timerTimeout (s : State) : Step := if timeoutEnabled s then timeoutStep s else .next s

/-- Reset (70_reset_and_hazards.md R460 to R462, R465): every piece of state takes its reset value. The channel is reset with the
block, so the commands it still presented are gone, and what it presents from here on stands next in the environment; what
the callers and the timer present, the units in transit and the responses already given are outside the block and stay
(log 13). -/
def resetStep (s : State) : State :=
  { State.resetOf s.config with
    env := { s.env with channelIn := s.env.channelLater.headD [], channelLater := s.env.channelLater.tail }
    outputs := s.outputs
    freeCount := s.freeCount }

/-- One step of the agent the schedule names. -/
def runMove (m : Move) (s : State) : Step :=
  match m with
  | .caller c => callerStep c s
  | .channel => commandStep .channel s
  | .deliver => deliverStep s
  | .timer => commandStep .timer s
  | .timeout => timerTimeout s
  | .reset => .next (resetStep s)

/-- The turn m has been taken off the schedule. -/
def takeTurn (rest : List Move) (s : State) : State := { s with env := { s.env with schedule := rest } }

/-- One step of the machine: the schedule's next agent moves. With no agent scheduled nothing changes: the block takes no step of
its own (00_scope.md R6, log 3). An ill-formed configuration has no step (70_reset_and_hazards.md R463). -/
def stepMachine (s : State) : Step :=
  if s.config.wf then
    match s.env.schedule with
    | [] => .next s
    | m :: rest => runMove m (takeTurn rest s)
  else .refused .illFormedConfig

/-! ## Placing one instruction (log 17) -/

/-- A caller port that can take a command: the first READY one, port 0 when there is none. -/
def placePort (s : State) : Nat := (s.ports.findIdx? fun q => q.phase = .ready).getD 0

/-- The port that carries a table word's OP: OP is bits 31:28 (30_encoding.md R156). -/
def wordPort (w : Nat) (s : State) : Port :=
  if (w >>> 28) % 16 = 10 ∨ (w >>> 28) % 16 = 11 then .channel
  else if (w >>> 28) % 16 = 12 then .timer
  else .caller (placePort s)

/-- The move that makes a port's agent take the next step. -/
def portMove : Port → Move
  | .caller c => .caller c
  | .channel => .channel
  | .timer => .timer

/-- The command's port is READY to take it. -/
def readyPort (p : Port) (s : State) : State :=
  match p with
  | .caller c => setPhase c .ready s
  | .channel => s
  | .timer => s

/-- The next turn is m's. -/
def scheduleNext (m : Move) (s : State) : State :=
  { s with env := { s.env with schedule := m :: s.env.schedule } }

/-- A command's exact bytes stand first on the port that carries it, and its agent moves next. -/
def placeCommand (w : Nat) (bs : List Byte) (s : State) : State :=
  let p := wordPort w s
  scheduleNext (portMove p) (readyPort p (setPortBytes p (bs ++ portBytes p s) s))

/-- A one-byte frame from initiator 0 is the next unit in transit, and the channel delivers it next. -/
def placeFrame (o : Byte) (s : State) : State :=
  scheduleNext .deliver
    { s with env := { s.env with
      inbound := { init := 0, len := 1, data := spliceBytes zeroBuf 0 [o] } :: s.env.inbound } }

/-- The instruction a table word spells stands where the next step takes its instruction. -/
def placeWord (s : State) (nbits w : Nat) : State :=
  if tableIsFrame nbits then placeFrame (BitVec.ofNat 8 w) s
  else
    match tableCommand s.config.catalog nbits w with
    | none => s
    | some (_, bs) => placeCommand w bs s

end Sys2Proof.Machine
end

