-- ==== Sys2Proof/Machine/Step.lean ====
section
/-! DEFINITION. The step function, and the state in which the next step runs a given instruction (log 17). -/

namespace Sys2Proof.Machine

/-- One step: one atomic transition of the agent the schedule names (spec/00_scope.md R5, R6). -/
def step (s : State) : Host.Outcome State Fault Refusal := stepMachine s

/-- The instruction of a table word is placed so that the very next step runs it. -/
def State.withFetchWord (s : State) (nbits w : Nat) : State := placeWord s nbits w

end Sys2Proof.Machine
end

