-- ==== Sys2Proof/Safety.lean ====
section
/-! DEFINITION. What a sound state of the block is: the invariants the spec states or derives (spec/10_state.md R32 to R50,
43_adapter.md R322 to R337), gathered as one predicate that every step keeps and in which no step faults
(60_exceptions.md R403). -/

namespace Sys2Proof.Machine

/-- A value register holds a value of the family its opcode selects through CATALOG (00_scope.md R11). -/
def holdsFamily (c : Config) (o : Byte) (v : Value) : Prop :=
  v.family = c.family o ∧ v.legal c.osdNameMax = true

/-- A transmit request as 10_state.md R48 has it: INIT is OWN_LA, LEN is 1..15, and the bytes that are not sent are 0. -/
def TxReqSound (c : Config) (r : TxReq) : Prop :=
  r.init = c.ownLa ∧ 1 ≤ r.len.toNat ∧ ∀ j (h : j < 15), r.len.toNat ≤ j → r.data[j] = 0

/-- LIFE of the transaction's slot in each adapter state (10_state.md R44; RELEASED stands for IDLE, which has none). -/
def transactionLife : AdapterState → Life
  | .idle => .released
  | .pending => .armed
  | .resolved => .resolved
  | .timedOut => .timedOut
  | .failed => .armed

/-- TX_X_RESULT in each adapter state (43_adapter.md R323, R332 to R334). -/
def TxResultSound : AdapterState → TxResult → Prop
  | .idle, r => r = .notYet
  | .pending, r => r ≠ .fail
  | .resolved, _ => True
  | .timedOut, r => r = .ok
  | .failed, r => r = .fail

/-- Slot k holding x, whatever its part in a transaction, under adapter state st and CUR_SLOT cur (10_state.md R43, R45). -/
structure SlotSound (c : Config) (st : AdapterState) (cur : BitVec 4) (k : Nat) (x : Slot) : Prop where
  /-- Single flight: a slot in a transaction is the slot CUR_SLOT of the transaction in progress (R45). -/
  singleFlight : x.life.inTransaction = true ↔ st ≠ .idle ∧ k = cur.toNat
  /-- REQ_VAL was written by EX_CREATE (R43). -/
  reqVal : x.life ≠ .released → holdsFamily c x.reqOpc x.reqVal
  /-- RPL_VAL was decoded for the expected opcode (R43, 42_exchange.md R293). -/
  rplVal : x.rplValid = true → x.expValid = true ∧ holdsFamily c x.expOpc x.rplVal
  /-- EXP_OPC is 0 when EXP_VALID = 0 (R43). -/
  expOpc : x.expValid = false → x.expOpc = 0

/-- The slot x of the transaction in progress, under adapter state st, CUR_DEST, TIMER_RUN and TX_X_RESULT
(10_state.md R44, 43_adapter.md R327, R332, R334). -/
structure TransactionSound (st : AdapterState) (dest : LogicalAddr) (timerRun : Bool) (tx : TxResult) (x : Slot) : Prop where
  life : x.life = transactionLife st
  dest : x.dest = dest
  reply : x.rplValid = true ↔ st = .resolved ∧ x.ans = true
  timed : timerRun = true → x.ans = true
  timedOut : st = .timedOut → x.ans = true
  fireAndForget : st = .resolved → x.ans = false → tx = .ok

/-- Registry entry e (10_state.md R46). -/
structure EntrySound (c : Config) (e : RegEntry) : Prop where
  val : e.valid = true → e.respond = true → holdsFamily c e.rplOpc e.val
  silent : e.respond = false → e.bcast = false ∧ e.rplOpc = 0
  absent : e.valid = false → e.respond = false

/-- Caller port c holding q, under NX, ST and OWNER (10_state.md R52, R53). -/
structure PortSound (nx : Nat) (st : AdapterState) (owner c : Nat) (q : CallerPort) : Prop where
  owner : q.phase = .txnWait ↔ st ≠ .idle ∧ c = owner
  latch : q.phase = .admitWait → q.latch.slot.toNat < nx

/-- The invariant of the block. -/
structure State.Inv (s : State) : Prop where
  /-- The configuration is well-formed (70_reset_and_hazards.md R463). -/
  config : s.config.wf = true
  /-- There are NX slots (10_state.md R42). -/
  slotCount : s.slots.length = s.config.nx
  /-- There are NC caller ports (60_exceptions.md R413). -/
  portCount : s.ports.length = s.config.nc
  /-- CUR_VALID = 1 exactly when ST = PENDING (10_state.md R45). -/
  curValid : s.curValid = true ↔ s.st = .pending
  /-- REPLY_SINK = 1 exactly when ST is not IDLE (10_state.md R38). -/
  replySink : s.replySink = true ↔ s.st ≠ .idle
  /-- INBOUND_SINK is 1 in every state after reset (60_exceptions.md R405). -/
  inboundSink : s.inboundSink = true
  /-- CUR_SLOT < NX whenever ST is not IDLE (10_state.md R33). -/
  curSlot : s.st ≠ .idle → s.curSlot.toNat < s.config.nx
  /-- OWNER is a port while a transaction is in progress (10_state.md R35). -/
  owner : s.st ≠ .idle → s.owner < s.config.nc
  /-- Every slot is sound. -/
  slots : ∀ k x, s.slots[k]? = some x → SlotSound s.config s.st s.curSlot k x
  /-- The transaction's slot is sound. -/
  transaction : ∀ x, s.st ≠ .idle → s.slots[s.curSlot.toNat]? = some x →
    TransactionSound s.st s.curDest s.timerRun s.txXResult x
  /-- TXX holds a request exactly while the transaction's transmit result is not known (10_state.md R37, R49). -/
  txxPending : s.txx.isSome = true ↔ s.st ≠ .idle ∧ s.txXResult = .notYet
  /-- The transmit result fits the adapter state. -/
  txResult : TxResultSound s.st s.txXResult
  /-- TXX is a sound request to CUR_DEST. -/
  txx : ∀ r, s.txx = some r → TxReqSound s.config r ∧ r.foll = s.curDest
  /-- Every request of TXA is sound. -/
  txa : ∀ r, r ∈ s.txa → TxReqSound s.config r
  /-- TXA holds at most TXA_DEPTH requests (10_state.md R50). -/
  txaDepth : s.txa.length ≤ s.config.txaDepth
  /-- The timer runs exactly in the reply wait (43_adapter.md R323, R332). -/
  timerRun : s.timerRun = true ↔ s.st = .pending ∧ s.txXResult = .ok
  /-- ELAPSED saturates at WAIT_MS (10_state.md R36). -/
  elapsed : s.elapsed.toNat ≤ s.waitMs.toNat
  /-- Nothing is counted before the timer starts (43_adapter.md R332). -/
  notStarted : s.st = .pending → s.timerRun = false → s.elapsed = 0
  /-- Every registry entry is sound. -/
  reg : ∀ o, EntrySound s.config (readReg o s)
  /-- Every caller port is sound. -/
  ports : ∀ c q, s.ports[c]? = some q → PortSound s.config.nx s.st s.owner c q
  /-- CSCR holds a value of its family (10_state.md R54). -/
  cscr : s.cscr.valid = true → s.cscr.val.family = s.cscr.fam

/-! ## Terms the statements use -/

/-- Instruction i, run in s, is the reception of the bytes b from initiator la (30_encoding.md R142, 43_adapter.md R326): a
RECEIVED command on the channel port with no reserved field set, or a frame of the catalog being delivered (log 7). -/
def Receives (i : Instr) (s : State) (la : LogicalAddr) (b : List Byte) : Prop :=
  (∃ h, i = .received h b ∧ s.issuer = .channel ∧ h.opc = 0 ∧ h.opc2 = 0 ∧ h.slot = 0 ∧ la = h.la) ∨
    (i.isCommand = false ∧ encode i = b ∧ la = s.rxInit)

/-- The frame [o] ++ p from initiator la resolves the pending transaction of slot x with the value v (R327, R328,
42_exchange.md R293). -/
def Resolves (s : State) (la : LogicalAddr) (o : Byte) (p : List Byte) (x : Slot) (v : Value) : Prop :=
  s.st = .pending ∧ s.slots[s.curSlot.toNat]? = some x ∧ x.ans = true ∧ (la = s.curDest ∨ la = 15) ∧
    x.expValid = true ∧ o = x.expOpc ∧ deserialize (s.config.family x.expOpc) p = .ok (some v)

/-- The reply wait of slot x goes on after the frame [o] ++ p from la: one of the conditions of `Resolves` fails while the
transaction is pending. -/
def KeepsWaiting (s : State) (la : LogicalAddr) (o : Byte) (p : List Byte) (x : Slot) : Prop :=
  s.st = .pending ∧ s.slots[s.curSlot.toNat]? = some x ∧
    (x.ans = false ∨ (la ≠ s.curDest ∧ la ≠ 15) ∨ x.expValid = false ∨ o ≠ x.expOpc ∨
      deserialize (s.config.family x.expOpc) p = .ok none)

/-- The transmit request of the frame [o] ++ b from OWN_LA to d: LEN = 1 + len(b), the frame's bytes first and zeros after
(10_state.md R48). -/
def RequestOf (c : Config) (d : LogicalAddr) (o : Byte) (b : List Byte) (r : TxReq) : Prop :=
  r.init = c.ownLa ∧ r.foll = d ∧ r.len.toNat = 1 + b.length ∧
    ∀ j (h : j < 15), r.data[j] = if j < 1 + b.length then (o :: b).getD j 0 else 0

/-- ANNOUNCE's own checks pass: reserved fields are 0 and the value is valid (41_registry.md R260). -/
def AnnounceFits (c : Config) (h : Header) (v : Operand) : Prop :=
  h.la = 0 ∧ h.slot = 0 ∧ h.flg.extractLsb' 2 2 = 0 ∧
    if h.flg.getLsbD 0 then (operandValue c.osdNameMax (c.family h.opc2) v).isSome = true
    else h.opc2 = 0 ∧ h.flg.getLsbD 1 = false

/-- A command has a reserved OP (30_encoding.md R156) or breaks a "0" entry of its row of the field table (R157). -/
def BreaksReserved : Instr → Prop
  | .exCreate h _ => h.la ≠ 0 ∨ h.flg.extractLsb' 2 2 ≠ 0 ∨ (h.flg.getLsbD 1 = false ∧ h.opc2 ≠ 0)
  | .exchange h _ => h.opc ≠ 0 ∨ h.opc2 ≠ 0 ∨ h.flg ≠ 0
  | .exRead h => h.la ≠ 0 ∨ h.opc ≠ 0 ∨ h.opc2 ≠ 0 ∨ h.flg ≠ 0
  | .announce h _ => h.la ≠ 0 ∨ h.slot ≠ 0 ∨ h.flg.extractLsb' 2 2 ≠ 0 ∨
      (h.flg.getLsbD 0 = false ∧ (h.opc2 ≠ 0 ∨ h.flg.getLsbD 1 = true))
  | .revoke h | .lookup h => h.la ≠ 0 ∨ h.opc2 ≠ 0 ∨ h.slot ≠ 0 ∨ h.flg ≠ 0
  | .statusRead h => h.la ≠ 0 ∨ h.opc ≠ 0 ∨ h.opc2 ≠ 0 ∨ h.slot ≠ 0 ∨ h.flg ≠ 0
  | .codecSer h _ => h.la ≠ 0 ∨ h.slot ≠ 0 ∨ h.flg ≠ 0
  | .codecDes h _ => h.la ≠ 0 ∨ h.opc2 ≠ 0 ∨ h.slot ≠ 0
  | .received h _ => h.opc ≠ 0 ∨ h.opc2 ≠ 0 ∨ h.slot ≠ 0
  | .txDoneXFail r | .txDoneXOk r | .txDoneAFail r | .txDoneAOk r =>
      r.la ≠ 0 ∨ r.opc ≠ 0 ∨ r.opc2 ≠ 0 ∨ r.slot ≠ 0 ∨ r.flgHi ≠ 0
  | .tick h => h.la ≠ 0 ∨ h.opc ≠ 0 ∨ h.opc2 ≠ 0 ∨ h.slot ≠ 0 ∨ h.flg ≠ 0
  | .reserved0 _ | .reservedD _ | .reservedE _ | .reservedF _ => True
  | .getCecVersion _ | .cecVersion _ | .givePhysicalAddr _ | .reportPhysicalAddr _ | .standby _ | .giveOsdName _
  | .setOsdName _ | .giveDeviceVendorId _ | .deviceVendorId _ | .getMenuLanguage _ | .setMenuLanguage _
  | .giveDevicePowerStatus _ | .reportPowerStatus _ | .userControlPressed _ | .userControlReleased _
  | .otherOpcode _ _ => False

/-- Command i is the one the OP map names for OP op, and its fields are those of the header h; TX_DONE's tag and success are FLG[1]
and FLG[0] (30_encoding.md R155, R156, R157). -/
def SpelledBy (op : BitVec 4) (h : Header) : Instr → Prop
  | .reserved0 h' => op = 0x0 ∧ h' = h
  | .exCreate h' _ => op = 0x1 ∧ h' = h
  | .exchange h' _ => op = 0x2 ∧ h' = h
  | .exRead h' => op = 0x3 ∧ h' = h
  | .announce h' _ => op = 0x4 ∧ h' = h
  | .revoke h' => op = 0x5 ∧ h' = h
  | .lookup h' => op = 0x6 ∧ h' = h
  | .statusRead h' => op = 0x7 ∧ h' = h
  | .codecSer h' _ => op = 0x8 ∧ h' = h
  | .codecDes h' _ => op = 0x9 ∧ h' = h
  | .received h' _ => op = 0xA ∧ h' = h
  | .txDoneXFail r => op = 0xB ∧ r = ⟨h.la, h.opc, h.opc2, h.slot, h.flg.extractLsb' 2 2⟩ ∧ h.flg.extractLsb' 0 2 = 0b00
  | .txDoneXOk r => op = 0xB ∧ r = ⟨h.la, h.opc, h.opc2, h.slot, h.flg.extractLsb' 2 2⟩ ∧ h.flg.extractLsb' 0 2 = 0b01
  | .txDoneAFail r => op = 0xB ∧ r = ⟨h.la, h.opc, h.opc2, h.slot, h.flg.extractLsb' 2 2⟩ ∧ h.flg.extractLsb' 0 2 = 0b10
  | .txDoneAOk r => op = 0xB ∧ r = ⟨h.la, h.opc, h.opc2, h.slot, h.flg.extractLsb' 2 2⟩ ∧ h.flg.extractLsb' 0 2 = 0b11
  | .tick h' => op = 0xC ∧ h' = h
  | .reservedD h' => op = 0xD ∧ h' = h
  | .reservedE h' => op = 0xE ∧ h' = h
  | .reservedF h' => op = 0xF ∧ h' = h
  | .getCecVersion _ | .cecVersion _ | .givePhysicalAddr _ | .reportPhysicalAddr _ | .standby _ | .giveOsdName _
  | .setOsdName _ | .giveDeviceVendorId _ | .deviceVendorId _ | .getMenuLanguage _ | .setMenuLanguage _
  | .giveDevicePowerStatus _ | .reportPowerStatus _ | .userControlPressed _ | .userControlReleased _
  | .otherOpcode _ _ => False

/-- The frame instruction is the row of 30_encoding.md R153 for opcode o, with the parameters p (log 18). -/
def FrameRow (o : Byte) (p : List Byte) : Instr → Prop
  | .getCecVersion p' => o = 0x9F ∧ p' = p
  | .cecVersion p' => o = 0x9E ∧ p' = p
  | .givePhysicalAddr p' => o = 0x83 ∧ p' = p
  | .reportPhysicalAddr p' => o = 0x84 ∧ p' = p
  | .standby p' => o = 0x36 ∧ p' = p
  | .giveOsdName p' => o = 0x46 ∧ p' = p
  | .setOsdName p' => o = 0x47 ∧ p' = p
  | .giveDeviceVendorId p' => o = 0x8C ∧ p' = p
  | .deviceVendorId p' => o = 0x87 ∧ p' = p
  | .getMenuLanguage p' => o = 0x91 ∧ p' = p
  | .setMenuLanguage p' => o = 0x32 ∧ p' = p
  | .giveDevicePowerStatus p' => o = 0x8F ∧ p' = p
  | .reportPowerStatus p' => o = 0x90 ∧ p' = p
  | .userControlPressed p' => o = 0x44 ∧ p' = p
  | .userControlReleased p' => o = 0x45 ∧ p' = p
  | .otherOpcode o' p' => o' = o ∧ p' = p ∧
      o ∉ [0x9F, 0x9E, 0x83, 0x84, 0x36, 0x46, 0x47, 0x8C, 0x87, 0x91, 0x32, 0x8F, 0x90, 0x44, 0x45]
  | .exCreate _ _ | .exchange _ _ | .exRead _ | .announce _ _ | .revoke _ | .lookup _ | .statusRead _ | .codecSer _ _
  | .codecDes _ _ | .received _ _ | .txDoneXFail _ | .txDoneXOk _ | .txDoneAFail _ | .txDoneAOk _ | .tick _
  | .reserved0 _ | .reservedD _ | .reservedE _ | .reservedF _ => False

/-- The frame [o] ++ p from initiator la is what turn m hands over in s: the RECEIVED command that the channel's bytes decode to,
or the unit at the head of the queue of received units (30_encoding.md R142, 43_adapter.md R326; log 2, 7). -/
def HandedOver (s : State) (m : Move) (la : LogicalAddr) (o : Byte) (p : List Byte) : Prop :=
  (m = .channel ∧ ∃ h rest, decodeCommand s.config.catalog s.env.channelIn = .ok (.received h (o :: p), rest) ∧ la = h.la) ∨
  (m = .deliver ∧ ∃ u rest, s.env.inbound = u :: rest ∧ la = u.init ∧ u.data.toList.take u.len.toNat = o :: p)

/-- The commands a caller port carries: OP 0x1..0x9 (30_encoding.md R156, R165). -/
def isCallerCommand : Instr → Bool
  | .exCreate _ _ | .exchange _ _ | .exRead _ | .announce _ _ | .revoke _ | .lookup _ | .statusRead _ | .codecSer _ _
  | .codecDes _ _ => true
  | .reserved0 _ | .reservedD _ | .reservedE _ | .reservedF _
  | .received _ _ | .txDoneXFail _ | .txDoneXOk _ | .txDoneAFail _ | .txDoneAOk _ | .tick _
  | .getCecVersion _ | .cecVersion _ | .givePhysicalAddr _ | .reportPhysicalAddr _ | .standby _ | .giveOsdName _
  | .setOsdName _ | .giveDeviceVendorId _ | .deviceVendorId _ | .getMenuLanguage _ | .setMenuLanguage _
  | .giveDevicePowerStatus _ | .reportPowerStatus _ | .userControlPressed _ | .userControlReleased _
  | .otherOpcode _ _ => false

/-- The commands the channel port carries: RECEIVED and TX_DONE (30_encoding.md R156, R165). -/
def isChannelCommand : Instr → Bool
  | .received _ _ | .txDoneXFail _ | .txDoneXOk _ | .txDoneAFail _ | .txDoneAOk _ => true
  | .exCreate _ _ | .exchange _ _ | .exRead _ | .announce _ _ | .revoke _ | .lookup _ | .statusRead _ | .codecSer _ _
  | .codecDes _ _ | .reserved0 _ | .reservedD _ | .reservedE _ | .reservedF _ | .tick _
  | .getCecVersion _ | .cecVersion _ | .givePhysicalAddr _ | .reportPhysicalAddr _ | .standby _ | .giveOsdName _
  | .setOsdName _ | .giveDeviceVendorId _ | .deviceVendorId _ | .getMenuLanguage _ | .setMenuLanguage _
  | .giveDevicePowerStatus _ | .reportPowerStatus _ | .userControlPressed _ | .userControlReleased _
  | .otherOpcode _ _ => false

/-- The command the timer port carries: TICK (30_encoding.md R156, R165). -/
def isTimerCommand : Instr → Bool
  | .tick _ => true
  | .received _ _ | .txDoneXFail _ | .txDoneXOk _ | .txDoneAFail _ | .txDoneAOk _
  | .exCreate _ _ | .exchange _ _ | .exRead _ | .announce _ _ | .revoke _ | .lookup _ | .statusRead _ | .codecSer _ _
  | .codecDes _ _ | .reserved0 _ | .reservedD _ | .reservedE _ | .reservedF _
  | .getCecVersion _ | .cecVersion _ | .givePhysicalAddr _ | .reportPhysicalAddr _ | .standby _ | .giveOsdName _
  | .setOsdName _ | .giveDeviceVendorId _ | .deviceVendorId _ | .getMenuLanguage _ | .setMenuLanguage _
  | .giveDevicePowerStatus _ | .reportPowerStatus _ | .userControlPressed _ | .userControlReleased _
  | .otherOpcode _ _ => false

/-- Port p carries the OP of command i (30_encoding.md R156, R165). -/
def portCarries (p : Port) (i : Instr) : Bool :=
  match p with
  | .caller _ => isCallerCommand i
  | .channel => isChannelCommand i
  | .timer => isTimerCommand i

end Sys2Proof.Machine
end

