-- ==== Sys2Proof/Certificates/Slice0/Obligations.lean ====
section
/-! DEFINITION. The statements for the provers. Each docstring names the rule of spec/ it formalises; where a clause rests on a
choice of the model, the docstring names the log entry. -/

open Sys2Proof Sys2Proof.Machine

/-! ## Encoding -/

/-- Command words that 95_test_vectors.md writes out byte by byte (V-EX-5, V-AD-1, V-EX-8, P6, V-RG-1, V-ST-1, V-CS-6, V-CD-1,
P7, P1, P4, V-ST-5, V-ST-6) decode to the instructions they stand for; then the table of 30_encoding.md R153: which frame
instruction each opcode is, and the family the default catalog gives it. The opcode values of that table other than 0x9F and
0x9E are PRESUMED (log 18). -/
def Obligations.WrittenWordsDecode : Prop :=
  decodeCommand defaultCatalog [0x10, 0x9F, 0x9E, 0x03] = .ok (.exCreate ⟨0, 0x9F, 0x9E, 0, 3⟩ .none, []) ∧
  decodeCommand defaultCatalog [0x20, 0x00, 0x00, 0x10, 0x00, 0x00, 0x00, 0x0A] = .ok (.exchange ⟨0, 0, 0, 1, 0⟩ 10, []) ∧
  decodeCommand defaultCatalog [0x30, 0x00, 0x00, 0x30] = .ok (.exRead ⟨0, 0, 0, 3, 0⟩, []) ∧
  decodeCommand defaultCatalog [0x40, 0x9F, 0x9E, 0x01, 0x00, 0x00, 0x00, 0x05] =
    .ok (.announce ⟨0, 0x9F, 0x9E, 0, 1⟩ (.word 5), []) ∧
  decodeCommand defaultCatalog [0x50, 0x9F, 0x00, 0x00] = .ok (.revoke ⟨0, 0x9F, 0, 0, 0⟩, []) ∧
  decodeCommand defaultCatalog [0x60, 0x46, 0x00, 0x00] = .ok (.lookup ⟨0, 0x46, 0, 0, 0⟩, []) ∧
  decodeCommand defaultCatalog [0x70, 0x00, 0x00, 0x00] = .ok (.statusRead ⟨0, 0, 0, 0, 0⟩, []) ∧
  decodeCommand defaultCatalog [0x80, 0x01, 0x0E, 0x00, 0x02, 0xAA, 0xBB] =
    .ok (.codecSer ⟨0, 0x01, 14, 0, 0⟩ (.bytes [0xAA, 0xBB]), []) ∧
  decodeCommand defaultCatalog [0x90, 0x9E, 0x00, 0x01, 0x05] = .ok (.codecDes ⟨0, 0x9E, 0, 0, 1⟩ [0x05], []) ∧
  decodeCommand defaultCatalog [0xAF, 0x00, 0x00, 0x02, 0x9E, 0x06] = .ok (.received ⟨15, 0, 0, 0, 2⟩ [0x9E, 0x06], []) ∧
  decodeCommand defaultCatalog [0xB0, 0x00, 0x00, 0x01] = .ok (.txDoneXOk ⟨0, 0, 0, 0, 0⟩, []) ∧
  decodeCommand defaultCatalog [0xB0, 0x00, 0x00, 0x02] = .ok (.txDoneAFail ⟨0, 0, 0, 0, 0⟩, []) ∧
  decodeCommand defaultCatalog [0xC0, 0x00, 0x00, 0x00] = .ok (.tick ⟨0, 0, 0, 0, 0⟩, []) ∧
  decodeCommand defaultCatalog [0x00, 0x00, 0x00, 0x00] = .ok (.reserved0 ⟨0, 0, 0, 0, 0⟩, []) ∧
  decodeCommand defaultCatalog [0xD0, 0x00, 0x00, 0x00] = .ok (.reservedD ⟨0, 0, 0, 0, 0⟩, []) ∧
  (∀ (o : Byte) (p : List Byte) (i : Instr), decodeFrame (o :: p) = .ok i → FrameRow o p i) ∧
  [0x9F, 0x9E, 0x83, 0x84, 0x36, 0x46, 0x47, 0x8C, 0x87, 0x91, 0x32, 0x8F, 0x90, 0x44, 0x45].map
      (catalogFamily defaultCatalog) =
    [.empty, .version, .empty, .physAddr, .empty, .empty, .osdName, .empty, .vendorId, .empty, .language, .empty,
      .powerStatus, .uiKey, .empty] ∧
  (∀ o : Byte, o ∉ [0x9F, 0x9E, 0x83, 0x84, 0x36, 0x46, 0x47, 0x8C, 0x87, 0x91, 0x32, 0x8F, 0x90, 0x44, 0x45] →
    catalogFamily defaultCatalog o = .raw)

/-- CMDW is four bytes, most significant first: OP and LA are the nibbles of the first, OPC and OPC2 the next two, SLOT and FLG
the nibbles of the last (30_encoding.md R155, the field table). OP alone says which command it is, by the OP map, and which
port may carry it (R156, both columns); the command's fields are the word's. -/
def Obligations.HeaderFieldsAreNibbles : Prop :=
  ∀ b0 b1 b2 b3 : Byte,
    (∃ w, takeWord [b0, b1, b2, b3] = some (w, []) ∧ cmdwOp w = b0.extractLsb' 4 4 ∧
      cmdwHeader w =
        { la := b0.extractLsb' 0 4, opc := b1, opc2 := b2, slot := b3.extractLsb' 4 4, flg := b3.extractLsb' 0 4 }) ∧
    ∀ (cat : List (Byte × Family)) (bs rest : List Byte) (i : Instr),
      decodeCommand cat (b0 :: b1 :: b2 :: b3 :: bs) = .ok (i, rest) →
      SpelledBy (b0.extractLsb' 4 4)
        { la := b0.extractLsb' 0 4, opc := b1, opc2 := b2, slot := b3.extractLsb' 4 4, flg := b3.extractLsb' 0 4 } i ∧
      (∀ c, portCarries (.caller c) i = true ↔ 0x1#4 ≤ b0.extractLsb' 4 4 ∧ b0.extractLsb' 4 4 ≤ 0x9#4) ∧
      (portCarries .channel i = true ↔ b0.extractLsb' 4 4 = 0xA ∨ b0.extractLsb' 4 4 = 0xB) ∧
      (portCarries .timer i = true ↔ b0.extractLsb' 4 4 = 0xC)

/-- Decoding what the encoder writes gives the command back, whatever bytes follow: no bit of any command's encoding is
dropped, with every operand at every value the encoding admits, under every catalog (30_encoding.md R155 to R160, R167). -/
def Obligations.CommandDecodeEncode : Prop :=
  ∀ (cat : List (Byte × Family)) (i : Instr) (rest : List Byte), wellFormed cat i = true → i.isCommand = true →
    decodeCommand cat (encode i ++ rest) = .ok (i, rest)

/-- The decoder reads nothing but what the encoder writes: bytes that decode are the encoding of a well-formed command,
followed by what is left (30_encoding.md R155 to R160, R167). -/
def Obligations.CommandEncodeDecode : Prop :=
  ∀ (cat : List (Byte × Family)) (bs rest : List Byte) (i : Instr), decodeCommand cat bs = .ok (i, rest) →
    bs = encode i ++ rest ∧ wellFormed cat i = true ∧ i.isCommand = true

/-- Decoding what the encoder writes gives the frame instruction back (30_encoding.md R140, R153). -/
def Obligations.FrameDecodeEncode : Prop :=
  ∀ (cat : List (Byte × Family)) (i : Instr), wellFormed cat i = true → i.isCommand = false →
    decodeFrame (encode i) = .ok i

/-- Every byte sequence of length 1 to 15 is a frame and is the encoding of the instruction it decodes to; length 0 is a footer
and is rejected, as is a length above 15 (20_memory.md R102, R103; 30_encoding.md R166). -/
def Obligations.FrameBytesDecode : Prop :=
  ∀ (cat : List (Byte × Family)) (b : List Byte),
    (b.length = 0 → decodeFrame b = .error .footer) ∧
    (1 ≤ b.length → b.length ≤ 15 →
      ∃ i, decodeFrame b = .ok i ∧ encode i = b ∧ wellFormed cat i = true ∧ i.isCommand = false) ∧
    (15 < b.length → decodeFrame b = .error .longFrame)

/-- The bytes of a response and the codes in it: RESPW most significant byte first, RESULT in its top byte and INFO below, then
the VALUE bytes; a value's bytes by family, in the format of a VALUE operand; the codes of RESULT, ST, TX_X_RESULT, LIFE and
the payload families (30_encoding.md R161, R158, R163, R143; 10_state.md R32, R37, R44). -/
def Obligations.ResponseLayout : Prop :=
  (∀ r : Response, responseBytes r =
    r.result.code :: r.info.extractLsb' 16 8 :: r.info.extractLsb' 8 8 :: r.info.extractLsb' 0 8 :: r.tail) ∧
  (∀ (v8 : BitVec 8) (v16 : BitVec 16) (v24 : BitVec 24) (b0 b1 b2 : Byte) (b : List Byte),
    valueBytes .empty = [] ∧ valueBytes (.version v8) = [0, 0, 0, v8] ∧ valueBytes (.powerStatus v8) = [0, 0, 0, v8] ∧
    valueBytes (.uiKey v8) = [0, 0, 0, v8] ∧
    valueBytes (.physAddr v16) = [0, 0, v16.extractLsb' 8 8, v16.extractLsb' 0 8] ∧
    valueBytes (.vendorId v24) = [0, v24.extractLsb' 16 8, v24.extractLsb' 8 8, v24.extractLsb' 0 8] ∧
    valueBytes (.language b0 b1 b2) = [3, b0, b1, b2] ∧
    (b.length ≤ 255 → ∃ l : Byte, l.toNat = b.length ∧ valueBytes (.osdName b) = l :: b ∧ valueBytes (.raw b) = l :: b)) ∧
  [Result.none, .unavailable, .timedOut, .busy, .payloadTooLarge, .alreadyRegistered, .notFound, .unexpectedPayload,
    .malformedPayload, .illegalState, .illegalCommand, .badSlot, .badValue].map Result.code =
    [0x00, 0x01, 0x02, 0x03, 0x04, 0x05, 0x06, 0x07, 0x08, 0x09, 0x0A, 0x0B, 0x0C] ∧
  [AdapterState.idle, .pending, .resolved, .timedOut, .failed].map AdapterState.code = [0, 1, 2, 3, 4] ∧
  [TxResult.notYet, .ok, .fail].map TxResult.code = [0, 1, 2] ∧
  [Life.released, .created, .armed, .resolved, .timedOut].map Life.code = [0, 1, 2, 3, 4] ∧
  [Family.empty, .version, .physAddr, .vendorId, .language, .osdName, .powerStatus, .uiKey, .raw].map Family.code =
    [0, 1, 2, 3, 4, 5, 6, 7, 8]

/-- The VALUE operand by family: when it is valid and the value it spells (30_encoding.md R158, the table). -/
def Obligations.ValueOperandTable : Prop :=
  ∀ (m : Nat) (v : Word32) (b : List Byte),
    operandValue m .empty .none = some .empty ∧
    operandValue m .version (.word v) =
      (if v.extractLsb' 8 24 = 0 then some (.version (v.extractLsb' 0 8)) else none) ∧
    operandValue m .powerStatus (.word v) =
      (if v.extractLsb' 8 24 = 0 then some (.powerStatus (v.extractLsb' 0 8)) else none) ∧
    operandValue m .uiKey (.word v) =
      (if v.extractLsb' 8 24 = 0 then some (.uiKey (v.extractLsb' 0 8)) else none) ∧
    operandValue m .physAddr (.word v) =
      (if v.extractLsb' 16 16 = 0 then some (.physAddr (v.extractLsb' 0 16)) else none) ∧
    operandValue m .vendorId (.word v) =
      (if v.extractLsb' 24 8 = 0 then some (.vendorId (v.extractLsb' 0 24)) else none) ∧
    operandValue m .language (.bytes b) =
      (if b.length = 3 then some (.language (b.getD 0 0) (b.getD 1 0) (b.getD 2 0)) else none) ∧
    operandValue m .osdName (.bytes b) = (if b.length ≤ m then some (.osdName b) else none) ∧
    operandValue m .raw (.bytes b) = (if b.length ≤ 14 then some (.raw b) else none)

/-! ## Frame codec -/

/-- The numeric encoders, under every maxOutLen (40_frame_codec.md R204, R206, R208). -/
def Obligations.NumericEncoders : Prop :=
  ∀ m : Nat,
    (∀ v : BitVec 8, serialize (.version v) m = if 1 ≤ min m 14 then some [v] else none) ∧
    (∀ v : BitVec 16, serialize (.physAddr v) m =
      if 2 ≤ min m 14 then some [v.extractLsb' 8 8, v.extractLsb' 0 8] else none) ∧
    (∀ v : BitVec 24, serialize (.vendorId v) m =
      if 3 ≤ min m 14 then some [v.extractLsb' 16 8, v.extractLsb' 8 8, v.extractLsb' 0 8] else none)

/-- The numeric decoders, on every byte sequence (40_frame_codec.md R205, R207, R209). -/
def Obligations.NumericDecoders : Prop :=
  (∀ b0 : Byte, deserialize .version [b0] = .ok (some (.version b0))) ∧
  (∀ b0 b1 : Byte, deserialize .physAddr [b0, b1] =
    .ok (some (.physAddr (BitVec.ofNat 16 (b0.toNat * 256 + b1.toNat))))) ∧
  (∀ b0 b1 b2 : Byte, deserialize .vendorId [b0, b1, b2] =
    .ok (some (.vendorId (BitVec.ofNat 24 (b0.toNat * 65536 + b1.toNat * 256 + b2.toNat))))) ∧
  (∀ b : List Byte, b.length ≠ 1 → deserialize .version b = .ok none) ∧
  (∀ b : List Byte, b.length ≠ 2 → deserialize .physAddr b = .ok none) ∧
  (∀ b : List Byte, b.length ≠ 3 → deserialize .vendorId b = .ok none)

/-- The encoders of EMPTY and the byte families: a name is never truncated and an empty name is not written, an empty RAW value
is (40_frame_codec.md R202, R210, R212, R218). -/
def Obligations.ByteFamilyEncoders : Prop :=
  ∀ (m : Nat) (b0 b1 b2 : Byte) (b : List Byte),
    serialize .empty m = some [] ∧
    serialize (.language b0 b1 b2) m = (if 3 ≤ min m 14 then some [b0, b1, b2] else none) ∧
    serialize (.osdName b) m = (if 1 ≤ b.length ∧ b.length ≤ min m 14 then some b else none) ∧
    serialize (.raw b) m = (if b.length ≤ min m 14 then some b else none)

/-- The decoders of EMPTY and the byte families (40_frame_codec.md R203, R211, R213, R219). -/
def Obligations.ByteFamilyDecoders : Prop :=
  ∀ b : List Byte,
    deserialize .empty b = .ok (if b.length = 0 then some .empty else none) ∧
    deserialize .language b = .ok (if b.length = 3 then some (.language (b.getD 0 0) (b.getD 1 0) (b.getD 2 0)) else none) ∧
    deserialize .osdName b = .ok (if b.length ≤ 14 then some (.osdName b) else none) ∧
    deserialize .raw b = .ok (if b.length ≤ 14 then some (.raw b) else none)

/-- The families whose width the spec gives from general knowledge (R150, R151, log 18) carry one byte, both ways
(40_frame_codec.md R214 to R217). -/
def Obligations.OneByteFamilies : Prop :=
  ∀ (m : Nat) (v : BitVec 8) (b : List Byte),
    serialize (.powerStatus v) m = (if 1 ≤ min m 14 then some [v] else none) ∧
    serialize (.uiKey v) m = (if 1 ≤ min m 14 then some [v] else none) ∧
    deserialize .powerStatus b = .ok (if b.length = 1 then some (.powerStatus (b.getD 0 0)) else none) ∧
    deserialize .uiKey b = .ok (if b.length = 1 then some (.uiKey (b.getD 0 0)) else none)

/-- Round trip: what Serialize writes for a value, Deserialize reads back as that value, and the only values of a family it does
not write are the empty name and a name longer than 14 bytes (40_frame_codec.md R221, which the spec marks as derived). -/
def Obligations.CodecRoundTrip : Prop :=
  ∀ (osdNameMax : Nat) (v : Value), v.legal osdNameMax = true →
    (∀ b, serialize v 14 = some b → deserialize v.family b = .ok (some v)) ∧
    (serialize v 14 = none ↔ ∃ name, v = .osdName name ∧ (name.length = 0 ∨ 14 < name.length))

/-- Length invariants: Serialize never writes more than 14 bytes nor more than maxOutLen; Deserialize accepts exactly the width
of a fixed family and exactly the lengths up to 14 of a variable one (40_frame_codec.md R222, which the spec marks as
derived). -/
def Obligations.CodecLengths : Prop :=
  (∀ (v : Value) (m : Nat) (b : List Byte), serialize v m = some b → b.length ≤ 14 ∧ b.length ≤ m) ∧
  (∀ (f : Family) (b : List Byte),
    ∃ r, deserialize f b = .ok r ∧ (r.isSome = true ↔ match f.width with
      | some w => b.length = w
      | none => b.length ≤ 14))

/-- CODEC_SER (40_frame_codec.md R223): reserved fields, then the value, then the answer: ok in INFO[0], n in INFO[11:8], the n
bytes after RESPW; nothing but the response changes. -/
def Obligations.CodecSerResult : Prop :=
  ∀ (h : Header) (v : Operand) (s : State) (c : Nat), s.issuer = .caller c →
    ((h.la ≠ 0 ∨ h.slot ≠ 0 ∨ h.flg ≠ 0) → exec (.codecSer h v) s = .next (raise (.caller c) .illegalCommand s)) ∧
    (h.la = 0 → h.slot = 0 → h.flg = 0 →
      (operandValue s.config.osdNameMax (s.config.family h.opc) v = none →
        exec (.codecSer h v) s = .next (raise (.caller c) .badValue s)) ∧
      (∀ val, operandValue s.config.osdNameMax (s.config.family h.opc) v = some val →
        ∃ info : BitVec 24,
          exec (.codecSer h v) s = .next (respond (.caller c)
            { result := .none, info := info, tail := (serialize val h.opc2.toNat).getD [] } s) ∧
          info.getLsbD 0 = (serialize val h.opc2.toNat).isSome ∧ info.extractLsb' 1 7 = 0 ∧
          (info.extractLsb' 8 4).toNat = ((serialize val h.opc2.toNat).getD []).length ∧ info.extractLsb' 12 12 = 0))

/-- CODEC_DES (40_frame_codec.md R224): reserved fields, then the length check, then CSCR and the decoded value; a failure
leaves CSCR and everything else as they were. -/
def Obligations.CodecDesResult : Prop :=
  ∀ (h : Header) (b : List Byte) (s : State) (c : Nat), s.issuer = .caller c →
    ((h.la ≠ 0 ∨ h.opc2 ≠ 0 ∨ h.slot ≠ 0) → exec (.codecDes h b) s = .next (raise (.caller c) .illegalCommand s)) ∧
    (h.la = 0 → h.opc2 = 0 → h.slot = 0 →
      (deserialize (s.config.family h.opc) b = .ok none →
        exec (.codecDes h b) s = .next (raise (.caller c) .malformedPayload s)) ∧
      (∀ val, deserialize (s.config.family h.opc) b = .ok (some val) →
        exec (.codecDes h b) s = .next (respond (.caller c)
          { result := .none, info := BitVec.setWidth 24 (s.config.family h.opc).code, tail := valueBytes val }
          { s with cscr := { valid := true, fam := s.config.family h.opc, val := val } })))

/-! ## Registry -/

/-- ANNOUNCE (41_registry.md R260): fields, then the value, then the test and insert of the one entry. With RESPOND = 0 the rule
leaves VAL unspecified: the statement holds for whatever value stands there, and for whatever the model's own counter of free
values becomes (log 9). -/
def Obligations.AnnounceResult : Prop :=
  ∀ (h : Header) (v : Operand) (s : State) (c : Nat), s.issuer = .caller c →
    ((h.la ≠ 0 ∨ h.slot ≠ 0 ∨ h.flg.extractLsb' 2 2 ≠ 0 ∨
        (h.flg.getLsbD 0 = false ∧ (h.opc2 ≠ 0 ∨ h.flg.getLsbD 1 = true))) →
      exec (.announce h v) s = .next (raise (.caller c) .illegalCommand s)) ∧
    (h.la = 0 → h.slot = 0 → h.flg.extractLsb' 2 2 = 0 → h.flg.getLsbD 0 = true →
      operandValue s.config.osdNameMax (s.config.family h.opc2) v = none →
      exec (.announce h v) s = .next (raise (.caller c) .badValue s)) ∧
    (AnnounceFits s.config h v → (readReg h.opc s).valid = true →
      exec (.announce h v) s = .next (raise (.caller c) .alreadyRegistered { s with regConflict := true })) ∧
    (AnnounceFits s.config h v → (readReg h.opc s).valid = false → h.flg.getLsbD 0 = true →
      ∀ val, operandValue s.config.osdNameMax (s.config.family h.opc2) v = some val →
        exec (.announce h v) s = .next (respond (.caller c) { result := .none, info := 0, tail := [] }
          { s with
            reg := s.reg.set h.opc.toNat
              { valid := true, respond := true, bcast := h.flg.getLsbD 1, rplOpc := h.opc2, val := val } h.opc.isLt })) ∧
    (AnnounceFits s.config h v → (readReg h.opc s).valid = false → h.flg.getLsbD 0 = false →
      ∃ (any : Value) (n : Nat), exec (.announce h v) s = .next (respond (.caller c) { result := .none, info := 0, tail := [] }
        { s with
          reg := s.reg.set h.opc.toNat
            { valid := true, respond := false, bcast := false, rplOpc := 0, val := any } h.opc.isLt
          freeCount := n }))

/-- REVOKE (41_registry.md R261): the entry goes; VAL is unspecified, so the statement holds for whatever value stands there, and
for whatever the model's own counter of free values becomes (log 9). REG_CONFLICT is not touched. -/
def Obligations.RevokeResult : Prop :=
  ∀ (h : Header) (s : State) (c : Nat), s.issuer = .caller c →
    ((h.la ≠ 0 ∨ h.opc2 ≠ 0 ∨ h.slot ≠ 0 ∨ h.flg ≠ 0) →
      exec (.revoke h) s = .next (raise (.caller c) .illegalCommand s)) ∧
    (h.la = 0 → h.opc2 = 0 → h.slot = 0 → h.flg = 0 →
      ((readReg h.opc s).valid = false → exec (.revoke h) s = .next (raise (.caller c) .notFound s)) ∧
      ((readReg h.opc s).valid = true →
        ∃ (any : Value) (n : Nat), exec (.revoke h) s = .next (respond (.caller c) { result := .none, info := 0, tail := [] }
          { s with
            reg := s.reg.set h.opc.toNat
              { valid := false, respond := false, bcast := false, rplOpc := 0, val := any } h.opc.isLt
            freeCount := n })))

/-- LOOKUP (41_registry.md R262): the entry's bits in INFO and its value when it answers; nothing but the response changes. -/
def Obligations.LookupResult : Prop :=
  ∀ (h : Header) (s : State) (c : Nat), s.issuer = .caller c →
    ((h.la ≠ 0 ∨ h.opc2 ≠ 0 ∨ h.slot ≠ 0 ∨ h.flg ≠ 0) →
      exec (.lookup h) s = .next (raise (.caller c) .illegalCommand s)) ∧
    (h.la = 0 → h.opc2 = 0 → h.slot = 0 → h.flg = 0 →
      ((readReg h.opc s).valid = false → exec (.lookup h) s = .next (raise (.caller c) .notFound s)) ∧
      ((readReg h.opc s).valid = true →
        ∃ info : BitVec 24,
          exec (.lookup h) s = .next (respond (.caller c)
            { result := .none, info := info,
              tail := if (readReg h.opc s).respond then valueBytes (readReg h.opc s).val else [] } s) ∧
          info.getLsbD 0 = (readReg h.opc s).respond ∧ info.getLsbD 1 = (readReg h.opc s).bcast ∧
          info.extractLsb' 2 6 = 0 ∧ info.extractLsb' 8 8 = (readReg h.opc s).rplOpc ∧ info.extractLsb' 16 8 = h.opc))

/-- Uniqueness law (41_registry.md R264, which the spec marks as derived), for every opcode: announce, announce again, revoke,
announce answer NONE, ALREADY_REGISTERED, NONE, NONE, and the refused announce changes no entry. -/
def Obligations.RegistryUniqueness : Prop :=
  ∀ (s : State) (c : Nat) (o : Byte) (h1 h2 h3 hr : Header) (v1 v2 v3 : Operand), s.issuer = .caller c →
    (readReg o s).valid = false → h1.opc = o → h2.opc = o → h3.opc = o →
    AnnounceFits s.config h1 v1 → AnnounceFits s.config h2 v2 → AnnounceFits s.config h3 v3 →
    hr = { la := 0, opc := o, opc2 := 0, slot := 0, flg := 0 } →
    ∃ s1 s2 s3 s4, exec (.announce h1 v1) s = .next s1 ∧ exec (.announce h2 v2) s1 = .next s2 ∧
      exec (.revoke hr) s2 = .next s3 ∧ exec (.announce h3 v3) s3 = .next s4 ∧ s2.reg = s1.reg ∧
      (readReg o s1).valid = true ∧ (readReg o s3).valid = false ∧ (readReg o s4).valid = true ∧
      s4.outputs = s.outputs ++
        [⟨.caller c, ⟨.none, 0, []⟩⟩, ⟨.caller c, ⟨.alreadyRegistered, 0, []⟩⟩, ⟨.caller c, ⟨.none, 0, []⟩⟩,
         ⟨.caller c, ⟨.none, 0, []⟩⟩]

/-- The registry is written only by ANNOUNCE and REVOKE, and by each only at the opcode its OPC field names (10_state.md R46,
41_registry.md R260, R261). -/
def Obligations.RegistryWriters : Prop :=
  ∀ (i : Instr) (s t : State) (o : Byte), exec i s = .next t → readReg o t ≠ readReg o s →
    (∃ h v, i = .announce h v ∧ h.opc = o ∧ (readReg o s).valid = false ∧ (readReg o t).valid = true) ∨
    (∃ h, i = .revoke h ∧ h.opc = o ∧ (readReg o s).valid = true ∧ (readReg o t).valid = false)

/-- REG_CONFLICT is sticky (10_state.md R40): an ANNOUNCE that fails with ALREADY_REGISTERED sets it, nothing else writes it,
and only reset clears it; its reset value is 0. -/
def Obligations.RegConflictSticky : Prop :=
  (∀ (h : Header) (v : Operand) (s t : State) (c : Nat), s.issuer = .caller c → exec (.announce h v) s = .next t →
    t.outputs = s.outputs ++ [⟨.caller c, ⟨.alreadyRegistered, 0, []⟩⟩] → t.regConflict = true) ∧
  (∀ (i : Instr) (s t : State), exec i s = .next t → t.regConflict ≠ s.regConflict →
    t.regConflict = true ∧
      ∃ h v c, i = .announce h v ∧ t.outputs = s.outputs ++ [⟨.caller c, ⟨.alreadyRegistered, 0, []⟩⟩]) ∧
  (∀ (s t : State), step s = .next t → s.regConflict = true →
    t.regConflict = true ∨ ∃ rest, s.env.schedule = .reset :: rest) ∧
  (∀ c : Config, (State.resetOf c).regConflict = false)

/-! ## Exchanges -/

/-- EX_CREATE (42_exchange.md R290): the checks in their order, and every field of the slot; DEST and RPL_VAL stay. The premise
on the number of slots is the clause `slotCount` of the invariant (10_state.md R42). -/
def Obligations.ExCreateResult : Prop :=
  ∀ (h : Header) (v : Operand) (s : State) (c : Nat), s.issuer = .caller c → s.slots.length = s.config.nx →
    ((h.la ≠ 0 ∨ h.flg.extractLsb' 2 2 ≠ 0 ∨ (h.flg.getLsbD 1 = false ∧ h.opc2 ≠ 0)) →
      exec (.exCreate h v) s = .next (raise (.caller c) .illegalCommand s)) ∧
    (h.la = 0 → h.flg.extractLsb' 2 2 = 0 → (h.flg.getLsbD 1 = false → h.opc2 = 0) →
      (s.config.nx ≤ h.slot.toNat → exec (.exCreate h v) s = .next (raise (.caller c) .badSlot s)) ∧
      (∀ x, s.slots[h.slot.toNat]? = some x →
        ((x.life = .armed ∨ x.life = .resolved ∨ x.life = .timedOut) →
          exec (.exCreate h v) s = .next (raise (.caller c) .illegalState s)) ∧
        ((x.life = .released ∨ x.life = .created) →
          (operandValue s.config.osdNameMax (s.config.family h.opc) v = none →
            exec (.exCreate h v) s = .next (raise (.caller c) .badValue s)) ∧
          (∀ val, operandValue s.config.osdNameMax (s.config.family h.opc) v = some val →
            exec (.exCreate h v) s = .next (respond (.caller c) { result := .none, info := 0, tail := [] }
              { s with
                slots := s.slots.set h.slot.toNat
                  { life := .created, reqOpc := h.opc, expValid := h.flg.getLsbD 1,
                    expOpc := if h.flg.getLsbD 1 then h.opc2 else 0, ans := h.flg.getLsbD 0, dest := x.dest,
                    reqVal := val, rplValid := false, rplVal := x.rplVal } })))))

/-- EX_READ (42_exchange.md R291): the slot's bits in INFO and its reply when it has one; nothing but the response changes. -/
def Obligations.ExReadResult : Prop :=
  ∀ (h : Header) (s : State) (c : Nat), s.issuer = .caller c → s.slots.length = s.config.nx →
    ((h.la ≠ 0 ∨ h.opc ≠ 0 ∨ h.opc2 ≠ 0 ∨ h.flg ≠ 0) →
      exec (.exRead h) s = .next (raise (.caller c) .illegalCommand s)) ∧
    (h.la = 0 → h.opc = 0 → h.opc2 = 0 → h.flg = 0 →
      (s.config.nx ≤ h.slot.toNat → exec (.exRead h) s = .next (raise (.caller c) .badSlot s)) ∧
      (∀ x, s.slots[h.slot.toNat]? = some x →
        ∃ info : BitVec 24,
          exec (.exRead h) s = .next (respond (.caller c)
            { result := .none, info := info, tail := if x.rplValid then valueBytes x.rplVal else [] } s) ∧
          info.extractLsb' 0 4 = x.life.code ∧ info.getLsbD 4 = x.ans ∧ info.getLsbD 5 = x.expValid ∧
          info.getLsbD 6 = x.rplValid ∧ info.getLsbD 7 = false ∧ info.extractLsb' 8 8 = x.expOpc ∧
          info.extractLsb' 16 8 = x.reqOpc))

/-- Prepare (42_exchange.md R292): the request that carries the slot's serialized value, addressed to d, or
PAYLOAD_TOO_LARGE (`none`) when it does not serialize into 14 bytes. The premise is when REQ_VAL may be read (10_state.md
R43). -/
def Obligations.PrepareResult : Prop :=
  ∀ (c : Config) (d : LogicalAddr) (x : Slot), x.life ≠ .released →
    (serialize x.reqVal 14 = none → prepare c.ownLa d x = .ok none) ∧
    (∀ b, serialize x.reqVal 14 = some b → ∃ r, prepare c.ownLa d x = .ok (some r) ∧ RequestOf c d x.reqOpc b r)

/-- Complete (42_exchange.md R293): the reply opcode must be the expected one and the payload's length the family's; on success
only RPL_VAL and RPL_VALID are written, a failure changes nothing. -/
def Obligations.CompleteResult : Prop :=
  ∀ (c : Config) (x : Slot) (o : Byte) (p : List Byte),
    (x.expValid = false → complete c.catalog x o p = .ok (.error .unexpectedPayload)) ∧
    (x.expValid = true → o ≠ x.expOpc → complete c.catalog x o p = .ok (.error .unexpectedPayload)) ∧
    (x.expValid = true → o = x.expOpc → deserialize (c.family x.expOpc) p = .ok none →
      complete c.catalog x o p = .ok (.error .malformedPayload)) ∧
    (∀ v, x.expValid = true → o = x.expOpc → deserialize (c.family x.expOpc) p = .ok (some v) →
      complete c.catalog x o p = .ok (.ok { x with rplVal := v, rplValid := true }))

/-! ## The adapter: outbound -/

/-- EXCHANGE, what it does before ARM (43_adapter.md R321): reserved fields, slot number, and, while a transaction is in
progress, BUSY under FAILFAST or a wait for admission with the operands latched under BLOCK; else it is ARM. -/
def Obligations.ExchangeIssue : Prop :=
  ∀ (h : Header) (w : Word32) (s : State) (c : Nat), s.issuer = .caller c →
    ((h.opc ≠ 0 ∨ h.opc2 ≠ 0 ∨ h.flg ≠ 0) → exec (.exchange h w) s = .next (raise (.caller c) .illegalCommand s)) ∧
    (h.opc = 0 → h.opc2 = 0 → h.flg = 0 →
      (s.config.nx ≤ h.slot.toNat → exec (.exchange h w) s = .next (raise (.caller c) .badSlot s)) ∧
      (h.slot.toNat < s.config.nx →
        (s.st ≠ .idle → s.config.busyPolicy = .failFast → exec (.exchange h w) s = .next (raise (.caller c) .busy s)) ∧
        (s.st ≠ .idle → s.config.busyPolicy = .block →
          exec (.exchange h w) s = .next { s with ports := s.ports.modify c fun _ =>
            { phase := .admitWait, latch := { dest := h.la, slot := h.slot, wait := w } } }) ∧
        (s.st = .idle → exec (.exchange h w) s = arm c h.la h.slot w s)))

/-- ARM and ADMIT (43_adapter.md R322): the slot must be CREATED and its request must serialize; then every bookkeeping register
is written in one step and the port waits for RETURN. ADMIT is ARM with the latched operands, taken when ST = IDLE; until then a turn of
the port is a hold (log 3). -/
def Obligations.ArmResult : Prop :=
  (∀ (c : Nat) (d : LogicalAddr) (k : BitVec 4) (w : Word32) (s : State) (x : Slot), s.slots[k.toNat]? = some x →
    (x.life ≠ .created → arm c d k w s = .next (raise (.caller c) .illegalState (setPhase c .ready s))) ∧
    (x.life = .created → serialize x.reqVal 14 = none →
      arm c d k w s = .next (raise (.caller c) .payloadTooLarge (setPhase c .ready s))) ∧
    (∀ b, x.life = .created → serialize x.reqVal 14 = some b →
      ∃ r, RequestOf s.config d x.reqOpc b r ∧
        arm c d k w s = .next { s with
          curValid := true
          curSlot := k
          curDest := d
          owner := c
          st := .pending
          slots := s.slots.set k.toNat { x with dest := d, life := .armed, rplValid := false }
          waitMs := w
          elapsed := 0
          timerRun := false
          txx := some r
          txXResult := .notYet
          replySink := true
          ports := s.ports.modify c fun q => { q with phase := .txnWait } })) ∧
  (∀ (c : Nat) (q : CallerPort) (s : State), s.ports[c]? = some q → q.phase = .admitWait →
    callerStep c s = if s.st = .idle then arm c q.latch.dest q.latch.slot q.latch.wait s else .next s)

/-- EXCHANGE completes: from IDLE, a CREATED slot whose request serializes arms the transaction, with every register as ARM
gives it (43_adapter.md R321, R322). -/
def Obligations.ExchangeArms : Prop :=
  ∀ (h : Header) (w : Word32) (s : State) (c : Nat) (x : Slot) (b : List Byte), s.issuer = .caller c → s.st = .idle →
    h.opc = 0 → h.opc2 = 0 → h.flg = 0 → h.slot.toNat < s.config.nx → s.slots[h.slot.toNat]? = some x →
    x.life = .created → serialize x.reqVal 14 = some b →
    ∃ r, RequestOf s.config h.la x.reqOpc b r ∧
      exec (.exchange h w) s = .next { s with
        curValid := true
        curSlot := h.slot
        curDest := h.la
        owner := c
        st := .pending
        slots := s.slots.set h.slot.toNat { x with dest := h.la, life := .armed, rplValid := false }
        waitMs := w
        elapsed := 0
        timerRun := false
        txx := some r
        txXResult := .notYet
        replySink := true
        ports := s.ports.modify c fun q => { q with phase := .txnWait } }

/-- TX_DONE, tag X (43_adapter.md R323), on the channel port with no reserved field set while a request is pending: a failure
fails the pending transaction, a success ends a fire-and-forget exchange or starts the reply wait, and after a reply only
the result is latched. That the timer is not running is what the invariant's clauses `timerRun` and `txxPending` give while
TXX holds a request. -/
def Obligations.TxDoneXResult : Prop :=
  ∀ (r : TxDoneRest) (s : State) (x : Slot), s.issuer = .channel →
    r.la = 0 → r.opc = 0 → r.opc2 = 0 → r.slot = 0 → r.flgHi = 0 → s.txx ≠ none → s.timerRun = false →
    s.slots[s.curSlot.toNat]? = some x →
    (s.st = .pending →
      exec (.txDoneXFail r) s = .next { s with txx := none, txXResult := .fail, st := .failed, curValid := false }) ∧
    (s.st = .pending → x.ans = false →
      exec (.txDoneXOk r) s = .next { s with
        txx := none
        txXResult := .ok
        st := .resolved
        curValid := false
        slots := s.slots.set s.curSlot.toNat { x with life := .resolved } }) ∧
    (s.st = .pending → x.ans = true →
      exec (.txDoneXOk r) s = .next { s with txx := none, txXResult := .ok, timerRun := true }) ∧
    (s.st = .resolved →
      exec (.txDoneXFail r) s = .next { s with txx := none, txXResult := .fail } ∧
      exec (.txDoneXOk r) s = .next { s with txx := none, txXResult := .ok })

/-- TX_DONE, tag A (43_adapter.md R324): the head of TXA goes, whatever the result, and nothing else changes. -/
def Obligations.TxDoneAResult : Prop :=
  ∀ (r : TxDoneRest) (s : State) (q : TxReq) (rest : List TxReq), s.issuer = .channel →
    r.la = 0 → r.opc = 0 → r.opc2 = 0 → r.slot = 0 → r.flgHi = 0 → s.txa = q :: rest →
    exec (.txDoneAOk r) s = .next { s with txa := rest } ∧ exec (.txDoneAFail r) s = .next { s with txa := rest }

/-! ## The adapter: reception -/

/-- RECEIVED (43_adapter.md R326, R327, R328) on the channel port: a reserved field that is not 0 is refused; a footer has no
effect; a correlated frame whose Complete succeeds resolves the transaction and is not offered to the inbound path; every
other frame leaves what the inbound path leaves. -/
def Obligations.ReceivedResult : Prop :=
  ∀ (h : Header) (b : List Byte) (s : State), s.issuer = .channel →
    ((h.opc ≠ 0 ∨ h.opc2 ≠ 0 ∨ h.slot ≠ 0) → exec (.received h b) s = .next (raise .channel .illegalCommand s)) ∧
    (h.opc = 0 → h.opc2 = 0 → h.slot = 0 → b.length ≤ 15 →
      (b = [] → exec (.received h b) s = .next (respond .channel { result := .none, info := 0, tail := [] } s)) ∧
      (∀ o p, b = o :: p →
        (∀ x v, Resolves s h.la o p x v →
          exec (.received h b) s =
            .next (respond .channel { result := .none, info := BitVec.ofNat 24 b.length, tail := [] }
              { s with
                st := .resolved
                curValid := false
                timerRun := false
                slots := s.slots.set s.curSlot.toNat { x with life := .resolved, rplVal := v, rplValid := true } })) ∧
        ((s.st ≠ .pending ∨ ∃ x, KeepsWaiting s h.la o p x) → ∀ t, inbound h.la o s = .ok t →
          exec (.received h b) s =
            .next (respond .channel { result := .none, info := BitVec.ofNat 24 b.length, tail := [] } t))))

/-- The sixteen catalog rows (the model's reading of what such a row does, log 7): a frame that the channel hands over runs as
the RECEIVED command that carries the frame's bytes, its length and its initiator (30_encoding.md R142, R153). -/
def Obligations.FrameRunsAsReceived : Prop :=
  ∀ (i : Instr) (s : State), i.isCommand = false → s.issuer = .channel →
    exec i s = exec (.received { la := s.rxInit, opc := 0, opc2 := 0, slot := 0,
                                 flg := BitVec.ofNat 4 (encode i).length } (encode i)) s

/-- The inbound auto-reply path (43_adapter.md R329): no handler, a handler that answers nothing, a value that does not
serialize or a full TXA leave everything as it was; else one request is pushed at the tail of TXA, to 15 or back to the
initiator. -/
def Obligations.InboundResult : Prop :=
  ∀ (la : LogicalAddr) (o : Byte) (s : State),
    ((readReg o s).valid = false → inbound la o s = .ok s) ∧
    ((readReg o s).valid = true → (readReg o s).respond = false → inbound la o s = .ok s) ∧
    ((readReg o s).valid = true → (readReg o s).respond = true → serialize (readReg o s).val 14 = none →
      inbound la o s = .ok s) ∧
    (∀ p, (readReg o s).valid = true → (readReg o s).respond = true → serialize (readReg o s).val 14 = some p →
      (s.txa.length = s.config.txaDepth → inbound la o s = .ok s) ∧
      (s.txa.length ≠ s.config.txaDepth →
        ∃ r, RequestOf s.config (if (readReg o s).bcast then 15 else la) (readReg o s).rplOpc p r ∧
          inbound la o s = .ok { s with txa := s.txa ++ [r] }))

/-- consumedLength (43_adapter.md R330): from every state of the invariant, RECEIVED and each of the sixteen frame instructions
(log 7) answer a next state whose one new response, on the channel port, is NONE with the length of the unit in INFO,
whether the frame resolved the transaction, was answered, was ignored or was dropped. -/
def Obligations.ConsumedLength : Prop :=
  ∀ (i : Instr) (s : State) (la : LogicalAddr) (b : List Byte), s.Inv → Receives i s la b → b.length ≤ 15 →
    ∃ t, exec i s = .next t ∧
      t.outputs = s.outputs ++ [⟨.channel, ⟨.none, BitVec.ofNat 24 b.length, []⟩⟩]

/-- Independence of the inbound path (43_adapter.md R338, which the spec marks as derived): it writes nothing but TXA, and what
it writes there depends on nothing but the registry, TXA and the configuration. -/
def Obligations.InboundIndependence : Prop :=
  (∀ (la : LogicalAddr) (o : Byte) (s t : State), inbound la o s = .ok t → t = { s with txa := t.txa }) ∧
  (∀ (la : LogicalAddr) (o : Byte) (s s' t : State), s.reg = s'.reg → s.txa = s'.txa → s.config = s'.config →
    inbound la o s = .ok t → inbound la o s' = .ok { s' with txa := t.txa })

/-! ## The adapter: timer and completion -/

/-- TICK (43_adapter.md R331): ELAPSED counts while the reply wait runs and stops at WAIT_MS; nothing else ever changes. -/
def Obligations.TickResult : Prop :=
  ∀ (h : Header) (s : State), s.issuer = .timer → h = ⟨0, 0, 0, 0, 0⟩ →
    exec (.tick h) s = .next (if s.timerRun = true ∧ s.st = .pending ∧ s.elapsed.toNat < s.waitMs.toNat
      then { s with elapsed := s.elapsed + 1 } else s)

/-- The wait is bounded: n ticks of a running timer count min(ELAPSED + n, WAIT_MS), so TIMEOUT is enabled after exactly the
ticks that are missing, whatever else the block holds (43_adapter.md R332, R335, in the parts the spec marks as derived). -/
def Obligations.TimeoutAfterWait : Prop :=
  ∀ (s : State) (n : Nat), s.Inv → s.st = .pending → s.timerRun = true →
    (Nat.iterate tick n s).elapsed.toNat = min (s.elapsed.toNat + n) s.waitMs.toNat ∧
    (timeoutEnabled (Nat.iterate tick n s) = true ↔ s.waitMs.toNat ≤ s.elapsed.toNat + n)

/-- TIMEOUT (43_adapter.md R332): enabled when ST = PENDING, TIMER_RUN = 1 and ELAPSED ≥ WAIT_MS; it ends the transaction as
TIMEDOUT. When it is not enabled the turn is a hold (log 3). -/
def Obligations.TimeoutResult : Prop :=
  ∀ (s : State) (x : Slot), s.slots[s.curSlot.toNat]? = some x →
    (s.st = .pending → s.timerRun = true → s.waitMs.toNat ≤ s.elapsed.toNat →
      timerTimeout s = .next { s with
        st := .timedOut
        curValid := false
        timerRun := false
        slots := s.slots.set s.curSlot.toNat { x with life := .timedOut } }) ∧
    ((s.st ≠ .pending ∨ s.timerRun = false ∨ s.elapsed.toNat < s.waitMs.toNat) → timerTimeout s = .next s)

/-- Combine (43_adapter.md R334): its table, and, in a state of the invariant in which RETURN is enabled, that TX_X_RESULT, ST,
ANS and RPL_VALID of the transaction's slot are one of its rows (the sentence the spec marks as derived). -/
def Obligations.CombineAtReturn : Prop :=
  (combine .fail .failed = some .unavailable ∧ combine .fail .resolved = some .unavailable ∧
    combine .ok .resolved = some .none ∧ combine .ok .timedOut = some .timedOut) ∧
  ∀ (s : State) (c : Nat) (x : Slot), s.Inv → returnEnabled c s = .ok true → s.slots[s.curSlot.toNat]? = some x →
    (s.txXResult = .fail ∧ s.st = .failed ∧ x.rplValid = false) ∨
    (s.txXResult = .fail ∧ s.st = .resolved ∧ x.rplValid = true) ∨
    (s.txXResult = .ok ∧ s.st = .resolved ∧ x.ans = false ∧ x.rplValid = false) ∨
    (s.txXResult = .ok ∧ s.st = .resolved ∧ x.ans = true ∧ x.rplValid = true) ∨
    (s.txXResult = .ok ∧ s.st = .timedOut ∧ x.rplValid = false)

/-- RETURN (43_adapter.md R333): once the transaction is over and its transmit result is known, the owner's port answers its
EXCHANGE with the combined result and the reply, and slot, adapter and port are free again; the slot keeps its reply.
Until then RETURN is not enabled and a turn of the port is a hold (log 3). -/
def Obligations.ReturnResult : Prop :=
  ∀ (s : State) (c : Nat) (q : CallerPort), s.ports[c]? = some q → q.phase = .txnWait →
    (∀ (x : Slot) (res : Result), s.owner = c → (s.st = .resolved ∨ s.st = .timedOut ∨ s.st = .failed) → s.txx = none →
      s.slots[s.curSlot.toNat]? = some x → combine s.txXResult s.st = some res →
      callerStep c s = .next (respond (.caller c)
        { result := res, info := if x.rplValid then 1 else 0, tail := if x.rplValid then valueBytes x.rplVal else [] }
        { s with
          slots := s.slots.set s.curSlot.toNat { x with life := .released }
          replySink := false
          timerRun := false
          txXResult := .notYet
          st := .idle
          ports := s.ports.modify c fun p => { p with phase := .ready } })) ∧
    ((s.owner ≠ c ∨ s.st = .idle ∨ s.st = .pending ∨ s.txx ≠ none) → callerStep c s = .next s)

/-! ## Status, refusals, errors -/

/-- STATUS_READ (44_status.md R390): every field of INFO at its place; nothing but the response changes. -/
def Obligations.StatusReadResult : Prop :=
  ∀ (h : Header) (s : State) (c : Nat), s.issuer = .caller c →
    ((h.la ≠ 0 ∨ h.opc ≠ 0 ∨ h.opc2 ≠ 0 ∨ h.slot ≠ 0 ∨ h.flg ≠ 0) →
      exec (.statusRead h) s = .next (raise (.caller c) .illegalCommand s)) ∧
    (h = ⟨0, 0, 0, 0, 0⟩ →
      ∃ info : BitVec 24,
        exec (.statusRead h) s = .next (respond (.caller c) { result := .none, info := info, tail := [] } s) ∧
        info.extractLsb' 0 3 = s.st.code ∧ info.getLsbD 3 = s.curValid ∧
        info.extractLsb' 4 4 = (if s.st = .idle then 0 else s.curDest) ∧
        info.extractLsb' 8 4 = (if s.st = .idle then 0 else s.curSlot) ∧
        info.getLsbD 12 = s.txx.isSome ∧ info.getLsbD 13 = s.timerRun ∧ info.getLsbD 14 = s.replySink ∧
        info.getLsbD 15 = s.inboundSink ∧ info.getLsbD 16 = s.regConflict ∧
        info.extractLsb' 17 2 = s.txXResult.code ∧ info.getLsbD 19 = false ∧
        (info.extractLsb' 20 4).toNat = min s.txa.length 15)

/-- Refused commands (44_status.md R391): a reserved OP, a port that does not carry the OP, or a reserved field that is not 0. No
state changes; on a caller port and for RECEIVED the answer is ILLEGAL_COMMAND, any other refused command has no effect at
all; a reserved OP has no operands. That a RECEIVED on the timer port is answered there, and that any other OP which the channel
or the timer port does not carry gets no answer, is the model's reading (log 11). -/
def Obligations.RefusedCommands : Prop :=
  ∀ (i : Instr) (s : State), i.isCommand = true → (BreaksReserved i ∨ portCarries s.issuer i = false) →
    (∀ c, s.issuer = .caller c →
      exec i s = .next (respond (.caller c) { result := .illegalCommand, info := 0, tail := [] } s)) ∧
    (∀ h b, i = .received h b → exec i s = .next (respond s.issuer { result := .illegalCommand, info := 0, tail := [] } s)) ∧
    ((∀ c, s.issuer ≠ .caller c) → (∀ h b, i ≠ .received h b) → exec i s = .next s) ∧
    (∀ h, i = .reserved0 h ∨ i = .reservedD h ∨ i = .reservedE h ∨ i = .reservedF h → (encode i).length = 4)

/-- Reporting is precise (60_exceptions.md R400): an instruction answered with an error has changed nothing but REG_CONFLICT,
and that only with ALREADY_REGISTERED; its response has INFO = 0 and no VALUE. (RETURN is not an instruction: its responses
are `ReturnResult`.) The premise is that the port that issues a command is READY (10_state.md R52). -/
def Obligations.ErrorsChangeNothing : Prop :=
  ∀ (i : Instr) (s t : State) (out : Output), exec i s = .next t →
    (∀ c q, s.issuer = .caller c → s.ports[c]? = some q → q.phase = .ready) →
    t.outputs = s.outputs ++ [out] → out.resp.result ≠ .none →
    out.resp.info = 0 ∧ out.resp.tail = [] ∧
      t = { s with outputs := t.outputs, regConflict := t.regConflict } ∧
      (t.regConflict ≠ s.regConflict → out.resp.result = .alreadyRegistered)

/-- Reading has no side effect (20_memory.md R112, which the spec marks as derived): EX_READ, LOOKUP, STATUS_READ and CODEC_SER
change nothing but the responses, and CODEC_DES nothing but CSCR beside them. -/
def Obligations.ReadsHaveNoEffect : Prop :=
  ∀ (i : Instr) (s t : State), exec i s = .next t →
    ((∃ h, i = .exRead h ∨ i = .lookup h ∨ i = .statusRead h ∨ ∃ v, i = .codecSer h v) →
      t = { s with outputs := t.outputs }) ∧
    ((∃ h b, i = .codecDes h b) → t = { s with outputs := t.outputs, cscr := t.cscr })

/-- Every step gives at most one response, on the port whose command it answers, and takes none back (30_encoding.md R161;
the responses are kept in order, log 5). -/
def Obligations.OneResponsePerStep : Prop :=
  ∀ s t : State, step s = .next t → ∃ out : Option Output, t.outputs = s.outputs ++ out.toList

/-! ## Steps of the agents -/

/-- A step runs the decoded instruction: the next command of a READY caller port, of the channel port or of the timer port, and
the next received unit, runs as exec of the instruction its bytes decode to, in the state in which the turn is taken, those
bytes are consumed, and the port is latched as the issuer; a unit of length 0 is answered without effect (00_scope.md R6,
43_adapter.md R320; log 2, 6, 7). -/
def Obligations.StepRunsDecodedInstruction : Prop :=
  ∀ (s : State) (rest : List Move), s.config.wf = true →
    (∀ c q bs bs' i, s.env.schedule = .caller c :: rest → s.ports[c]? = some q → q.phase = .ready →
      s.env.callerIn[c]? = some bs → decodeCommand s.config.catalog bs = .ok (i, bs') →
      step s = exec i { s with
        issuer := .caller c
        env := { s.env with schedule := rest, callerIn := s.env.callerIn.set c bs' } }) ∧
    (∀ bs' i, s.env.schedule = .channel :: rest → decodeCommand s.config.catalog s.env.channelIn = .ok (i, bs') →
      step s = exec i { s with issuer := .channel, env := { s.env with schedule := rest, channelIn := bs' } }) ∧
    (∀ bs' i, s.env.schedule = .timer :: rest → decodeCommand s.config.catalog s.env.timerIn = .ok (i, bs') →
      step s = exec i { s with issuer := .timer, env := { s.env with schedule := rest, timerIn := bs' } }) ∧
    (∀ u us i, s.env.schedule = .deliver :: rest → s.env.inbound = u :: us →
      decodeFrame (u.data.toList.take u.len.toNat) = .ok i →
      step s = exec i { s with
        issuer := .channel
        rxInit := u.init
        env := { s.env with schedule := rest, inbound := us } }) ∧
    (∀ u us, s.env.schedule = .deliver :: rest → s.env.inbound = u :: us → u.len = 0 →
      step s = .next (respond .channel { result := .none, info := 0, tail := [] }
        { s with issuer := .channel, rxInit := u.init, env := { s.env with schedule := rest, inbound := us } }))

/-- The internal steps and the holds: ADMIT, RETURN, TIMEOUT and reset take the turn the schedule gives them (what ADMIT, RETURN
and TIMEOUT do with a turn in which they are not enabled is `ArmResult`, `ReturnResult` and `TimeoutResult`); a turn of a caller
port, the channel or the timer whose bytes make no whole command, a delivery with no unit in transit and a turn of a number that
is no port change nothing but the schedule; with no turn scheduled nothing changes (00_scope.md R5, R6, 43_adapter.md R320;
log 2, 3, 4, 20). -/
def Obligations.StepTakesTurn : Prop :=
  ∀ s : State, s.config.wf = true →
    (s.env.schedule = [] → step s = .next s) ∧
    (∀ rest, s.env.schedule = .timeout :: rest →
      step s = timerTimeout { s with env := { s.env with schedule := rest } }) ∧
    (∀ c q rest, s.env.schedule = .caller c :: rest → s.ports[c]? = some q → q.phase ≠ .ready →
      step s = callerStep c { s with env := { s.env with schedule := rest } }) ∧
    (∀ rest, s.env.schedule = .reset :: rest →
      step s = .next (resetStep { s with env := { s.env with schedule := rest } })) ∧
    (∀ c rest, s.env.schedule = .caller c :: rest → s.ports.length ≤ c →
      step s = .next { s with env := { s.env with schedule := rest } }) ∧
    (∀ rest, s.env.schedule = .deliver :: rest → s.env.inbound = [] →
      step s = .next { s with env := { s.env with schedule := rest } }) ∧
    (∀ c q e rest, s.env.schedule = .caller c :: rest → s.ports[c]? = some q → q.phase = .ready →
      decodeCommand s.config.catalog (s.env.callerIn.getD c []) = .error e →
      step s = .next { s with env := { s.env with schedule := rest } }) ∧
    (∀ e rest, s.env.schedule = .channel :: rest → decodeCommand s.config.catalog s.env.channelIn = .error e →
      step s = .next { s with env := { s.env with schedule := rest } }) ∧
    (∀ e rest, s.env.schedule = .timer :: rest → decodeCommand s.config.catalog s.env.timerIn = .error e →
      step s = .next { s with env := { s.env with schedule := rest } })

/-- Configuration (70_reset_and_hazards.md R463; that the refusal is step's is log 22): a step is refused exactly under a
configuration whose parameters are outside the ranges of the rule, and by that one reason. -/
def Obligations.IllFormedConfigRefused : Prop :=
  ∀ s : State,
    ((∃ r, step s = .refused r) ↔
      ¬ (s.config.ownLa.toNat ≤ 14 ∧ 1 ≤ s.config.nc ∧ 1 ≤ s.config.nx ∧ s.config.nx ≤ 16 ∧ 1 ≤ s.config.txaDepth ∧
        14 ≤ s.config.osdNameMax ∧ s.config.osdNameMax ≤ 255)) ∧
    (∀ r, step s = .refused r → r = .illFormedConfig)

/-- No step writes the configuration (10_state.md R55, 70_reset_and_hazards.md R463). -/
def Obligations.ConfigNeverChanges : Prop :=
  ∀ s t : State, step s = .next t → t.config = s.config

/-- The state after reset, at power-on and at any later reset step, holds the value the spec states for every register that has
one (10_state.md R58, 70_reset_and_hazards.md R461, R462; the values the spec leaves unspecified are not named here). -/
def Obligations.ResetValues : Prop :=
  ∀ (c : Config) (s : State) (rest : List Move), c.wf = true → s.config = c → s.env.schedule = .reset :: rest →
    ∃ t, step s = .next t ∧ ∀ u, (u = t ∨ u = State.resetOf c) →
      u.st = .idle ∧ u.curValid = false ∧ u.waitMs = 0 ∧ u.elapsed = 0 ∧ u.timerRun = false ∧ u.txXResult = .notYet ∧
      u.replySink = false ∧ u.inboundSink = true ∧ u.regConflict = false ∧
      u.slots.length = c.nx ∧
      (∀ x, x ∈ u.slots → x.life = .released ∧ x.reqOpc = 0 ∧ x.expValid = false ∧ x.expOpc = 0 ∧ x.ans = false ∧
        x.dest = 0 ∧ x.rplValid = false) ∧
      (∀ o, (readReg o u).valid = false ∧ (readReg o u).respond = false ∧ (readReg o u).bcast = false ∧
        (readReg o u).rplOpc = 0) ∧
      u.txx = none ∧ u.txa = [] ∧ u.ports.length = c.nc ∧ (∀ q, q ∈ u.ports → q.phase = .ready) ∧
      u.cscr.valid = false

/-- Reset during activity (70_reset_and_hazards.md R465): every port is READY and no response is given; the pending requests are
gone, so a TX_DONE taken before a new request is made completes nothing; the channel is reset too: of what it presented nothing
is left, and it goes on with what the environment holds for the time after this reset; a unit in transit may still be
delivered (log 12, 13). -/
def Obligations.ResetDuringActivity : Prop :=
  ∀ (s : State) (rest : List Move), s.config.wf = true → s.env.schedule = .reset :: rest →
    ∃ t, step s = .next t ∧ t.outputs = s.outputs ∧ (∀ q, q ∈ t.ports → q.phase = .ready) ∧ t.txx = none ∧ t.txa = [] ∧
      (∀ (r : TxDoneRest) (i : Instr), (i = .txDoneXFail r ∨ i = .txDoneXOk r ∨ i = .txDoneAFail r ∨ i = .txDoneAOk r) →
        exec i { t with issuer := .channel } = .next { t with issuer := .channel }) ∧
      t.env = { s.env with
        schedule := rest
        channelIn := s.env.channelLater.headD []
        channelLater := s.env.channelLater.tail }

/-! ## Invariants and laws of the whole machine -/

/-- Every step keeps the invariant: single flight, one value family per register, bounded queues, a saturating timer, and
adapter, slot, port and sink states that agree (10_state.md R33 to R50, R45; 43_adapter.md R322 to R336). -/
def Obligations.StepKeepsInvariant : Prop :=
  ∀ s t : State, s.Inv → step s = .next t → t.Inv

/-- The invariant holds at reset, and at the reset of every well-formed configuration. -/
def Obligations.ResetInvariant : Prop :=
  State.reset.Inv ∧ ∀ c : Config, c.wf = true → (State.resetOf c).Inv

/-- Faults (60_exceptions.md R403, 20_memory.md R104): a register is read only in the states in which the rules give it a value,
and a byte only inside the frame in use; elsewhere the read faults under its own name (log 10). No rule reaches such a fault (the
sentences the spec marks as derived): from a state of the invariant every step answers a next state. -/
def Obligations.NoStepFaults : Prop :=
  (∀ s : State, s.st = .idle →
    readCurSlot s = .error (.unspecifiedRead .curSlot) ∧ readCurDest s = .error (.unspecifiedRead .curDest) ∧
    readOwner s = .error (.unspecifiedRead .owner)) ∧
  (∀ s : State, s.cscr.valid = false →
    readCscrFam s = .error (.unspecifiedRead .cscrFam) ∧ readCscrVal s = .error (.unspecifiedRead .cscrVal)) ∧
  (∀ x : Slot, (x.life = .released → readReqVal x = .error (.unspecifiedRead .reqVal)) ∧
    (x.rplValid = false → readRplVal x = .error (.unspecifiedRead .rplVal))) ∧
  (∀ e : RegEntry, (e.valid = false ∨ e.respond = false) → readRegVal e = .error (.unspecifiedRead .regVal)) ∧
  (∀ q : CallerPort, q.phase ≠ .admitWait → readLatch q = .error (.unspecifiedRead .latch)) ∧
  (∀ (buf : FrameBuf) (len addr n : Nat) (bs b : List Byte), bs.length = n →
    (15 < addr + n → memRead buf len addr n = .error .bufferIndex ∧ memWrite buf len addr bs = .error .bufferIndex) ∧
    (addr + n ≤ 15 → len < addr + n →
      memRead buf len addr n = .error .paramRegion ∧ memWrite buf len addr bs = .error .paramRegion) ∧
    paramWrite buf len 0 bs = .error .paramRegion ∧
    (b.length < addr + n → paramRead b addr n = .error .paramRegion)) ∧
  ∀ s : State, s.Inv → ∃ t, step s = .next t

/-- Single flight (10_state.md R45, 43_adapter.md R336, which the spec marks as derived): at most one slot is in a transaction,
one is exactly when ST is not IDLE, and no step but one that arms (or reset) writes CUR_SLOT, CUR_DEST or OWNER. -/
def Obligations.SingleFlight : Prop :=
  (∀ s : State, s.Inv →
    (∀ (j k : Nat) (x y : Slot), s.slots[j]? = some x → s.slots[k]? = some y → x.life.inTransaction = true →
      y.life.inTransaction = true → j = k) ∧
    ((∃ (k : Nat) (x : Slot), s.slots[k]? = some x ∧ x.life.inTransaction = true) ↔ s.st ≠ .idle)) ∧
  (∀ s t : State, step s = .next t → (t.curSlot ≠ s.curSlot ∨ t.curDest ≠ s.curDest ∨ t.owner ≠ s.owner) →
    (s.st = .idle ∧ t.st = .pending) ∨ ∃ rest, s.env.schedule = .reset :: rest)

/-- The transition table of ST (43_adapter.md R337, which the spec marks as derived; reset is R460): every step that changes ST
is one of its rows, taken by the agent, with the command or the frame that agent hands over (log 2, 7), and under the condition
the row names. -/
def Obligations.TransitionTable : Prop :=
  ∀ s t : State, s.Inv → step s = .next t → t.st ≠ s.st →
    ∃ m rest, s.env.schedule = m :: rest ∧
      ((s.st = .idle ∧ t.st = .pending ∧ ∃ c x, m = .caller c ∧ s.slots[t.curSlot.toNat]? = some x ∧
          x.life = .created ∧ (serialize x.reqVal 14).isSome = true) ∨
       (s.st = .pending ∧ t.st = .failed ∧ m = .channel ∧ s.txx ≠ none ∧ t.txXResult = .fail ∧
          ∃ r bs, decodeCommand s.config.catalog s.env.channelIn = .ok (.txDoneXFail r, bs)) ∨
       (s.st = .pending ∧ t.st = .resolved ∧ m = .channel ∧ s.txx ≠ none ∧ t.txXResult = .ok ∧
          (∃ r bs, decodeCommand s.config.catalog s.env.channelIn = .ok (.txDoneXOk r, bs)) ∧
          ∃ x, s.slots[s.curSlot.toNat]? = some x ∧ x.ans = false) ∨
       (s.st = .pending ∧ t.st = .resolved ∧
          ∃ la o p x v, HandedOver s m la o p ∧ Resolves s la o p x v ∧
            t.slots[s.curSlot.toNat]? = some { x with life := .resolved, rplVal := v, rplValid := true }) ∨
       (s.st = .pending ∧ t.st = .timedOut ∧ m = .timeout ∧ s.timerRun = true ∧ s.waitMs.toNat ≤ s.elapsed.toNat) ∨
       (s.st.terminal = true ∧ t.st = .idle ∧ m = .caller s.owner ∧ s.txx = none) ∨
       (t.st = .idle ∧ m = .reset))

/-- A port in TXN_WAIT is left there by every step but its own RETURN, and reset (10_state.md R53). -/
def Obligations.TxnWaitLeftByReturn : Prop :=
  ∀ (s t : State) (c : Nat) (q q' : CallerPort), step s = .next t → s.ports[c]? = some q → q.phase = .txnWait →
    t.ports[c]? = some q' → q'.phase ≠ .txnWait →
    (∃ rest, s.env.schedule = .caller c :: rest ∧ returnEnabled c s = .ok true ∧ q'.phase = .ready) ∨
    ∃ rest, s.env.schedule = .reset :: rest

/-- The life of a slot (10_state.md R44): every change of LIFE that a step makes is one the rule lists, made by the agent of the
step the rule names for it, or reset. -/
def Obligations.LifeTransitions : Prop :=
  ∀ (s t : State) (k : Nat) (x y : Slot), s.Inv → step s = .next t → s.slots[k]? = some x → t.slots[k]? = some y →
    y.life ≠ x.life →
    ∃ m rest, s.env.schedule = m :: rest ∧
      ((x.life = .released ∧ y.life = .created ∧ ∃ c q, m = .caller c ∧ s.ports[c]? = some q ∧ q.phase = .ready) ∨
       (x.life = .created ∧ y.life = .armed ∧ s.st = .idle ∧ t.st = .pending ∧ ∃ c, m = .caller c) ∨
       (x.life = .armed ∧ y.life = .resolved ∧ t.st = .resolved ∧ (m = .channel ∨ m = .deliver)) ∨
       (x.life = .armed ∧ y.life = .timedOut ∧ t.st = .timedOut ∧ m = .timeout) ∨
       (((x.life = .armed ∧ s.st = .failed) ∨ x.life = .resolved ∨ x.life = .timedOut) ∧ y.life = .released ∧
         t.st = .idle ∧ m = .caller s.owner) ∨
       m = .reset)
end

