-- ==== Sys2Proof/Laws/Bytes.lean ====
section
/-! SUPPORT. The laws of the big-endian helpers (spec/00_scope.md R10) and what taking bytes off the front answers. -/

namespace Sys2Proof

@[simp] theorem be_length (n v : Nat) : (be n v).length = n := by simp [be]

@[simp] theorem be_zero (v : Nat) : be 0 v = [] := rfl

theorem be_succ (n v : Nat) : be (n + 1) v = BitVec.ofNat 8 (v >>> (8 * n)) :: be n v := by
  simp only [be, List.range_succ_eq_map, List.map_cons, List.map_map]
  congr 1
  refine List.map_congr_left fun i _ => ?_
  have h : n + 1 - 1 - (i + 1) = n - 1 - i := by omega
  simp only [Function.comp_apply, Nat.succ_eq_add_one, h]

theorem foldl_bytes (s : List Byte) (a : Nat) :
    s.foldl (fun acc b => acc * 256 + b.toNat) a = a * 256 ^ s.length + unbe s := by
  induction s generalizing a with
  | nil => simp [unbe]
  | cons b s ih =>
    have h : unbe (b :: s) = (0 * 256 + b.toNat) * 256 ^ s.length + unbe s := ih _
    rw [List.foldl_cons, ih, h, List.length_cons, pow_succ]
    ring

@[simp] theorem unbe_nil : unbe [] = 0 := rfl

theorem unbe_cons (b : Byte) (s : List Byte) : unbe (b :: s) = b.toNat * 256 ^ s.length + unbe s := by
  have h : unbe (b :: s) = (0 * 256 + b.toNat) * 256 ^ s.length + unbe s := foldl_bytes s _
  simpa using h

theorem unbe_lt (s : List Byte) : unbe s < 256 ^ s.length := by
  induction s with
  | nil => simp
  | cons b s ih =>
    have := b.isLt
    rw [unbe_cons, List.length_cons, pow_succ]
    nlinarith

/-- Splitting a number and joining the bytes gives it back, up to the width (R10). -/
theorem unbe_be (n v : Nat) : unbe (be n v) = v % 256 ^ n := by
  induction n with
  | zero => simp [Nat.mod_one]
  | succ n ih =>
    have h : 2 ^ (8 * n) = 256 ^ n := by rw [pow_mul]; norm_num
    rw [be_succ, unbe_cons, be_length, ih, BitVec.toNat_ofNat, Nat.shiftRight_eq_div_pow, h, pow_succ 256,
      Nat.mod_mul (a := 256 ^ n) (b := 256)]
    change v / 256 ^ n % 256 * 256 ^ n + _ = _
    rw [Nat.mul_comm, Nat.add_comm]

/-- Joining bytes and splitting the number gives them back (R10). -/
theorem be_unbe (s : List Byte) : be s.length (unbe s) = s := by
  have key : ∀ (s : List Byte) (a : Nat), be s.length (a * 256 ^ s.length + unbe s) = s := by
    intro s
    induction s with
    | nil => intro a; rfl
    | cons b s ih =>
      intro a
      have h : 2 ^ (8 * s.length) = 256 ^ s.length := by rw [pow_mul]; norm_num
      have e : a * 256 ^ (s.length + 1) + unbe (b :: s) = (a * 256 + b.toNat) * 256 ^ s.length + unbe s := by
        rw [unbe_cons, pow_succ]; ring
      have lt := unbe_lt s
      have pos : 0 < 256 ^ s.length := by positivity
      rw [List.length_cons, e, be_succ, ih, Nat.shiftRight_eq_div_pow, h]
      congr 1
      apply BitVec.eq_of_toNat_eq
      rw [BitVec.toNat_ofNat, Nat.mul_comm, Nat.mul_add_div pos, Nat.div_eq_of_lt lt]
      have := b.isLt
      omega
  simpa using key s 0

theorem takeWord_be (v : Nat) (rest : List Byte) : takeWord (be 4 v ++ rest) = some (BitVec.ofNat 32 v, rest) := by
  have e := unbe_be 4 v
  simp only [be_succ, be_zero] at e
  simp only [be_succ, be_zero, List.cons_append, List.nil_append, takeWord, e]
  congr 2
  apply BitVec.eq_of_toNat_eq
  simp

/-- A word was taken exactly where four bytes stood first. -/
theorem takeWord_some {bs rest : List Byte} {w : Word32} (h : takeWord bs = some (w, rest)) :
    bs = be 4 w.toNat ++ rest := by
  match bs, h with
  | b0 :: b1 :: b2 :: b3 :: tl, h =>
    simp only [takeWord, Option.some.injEq, Prod.mk.injEq] at h
    obtain ⟨rfl, rfl⟩ := h
    have lt := unbe_lt [b0, b1, b2, b3]
    have e := be_unbe [b0, b1, b2, b3]
    simp only [List.length_cons, List.length_nil] at lt e
    rw [BitVec.toNat_ofNat, Nat.mod_eq_of_lt (by simpa using lt), e]
    rfl

theorem takeBytes_append (b rest : List Byte) : takeBytes b.length (b ++ rest) = some (b, rest) := by
  simp [takeBytes]

theorem takeBytes_some {n : Nat} {bs b rest : List Byte} (h : takeBytes n bs = some (b, rest)) :
    bs = b ++ rest ∧ b.length = n := by
  unfold takeBytes at h
  split at h
  · simp only [Option.some.injEq, Prod.mk.injEq] at h
    obtain ⟨rfl, rfl⟩ := h
    exact ⟨(List.take_append_drop n bs).symm, by simpa using ‹_›⟩
  · cases h

/-- The operand of a family's form is taken back as it was written (spec/30_encoding.md R158). -/
theorem takeValue_operandBytes {f : Family} {v : Operand} (h : operandFits f v = true) (rest : List Byte) :
    takeValue f (operandBytes v ++ rest) = some (v, rest) := by
  cases v with
  | none => cases f <;> simp_all [operandFits, takeValue, operandBytes]
  | word w => cases f <;> simp_all [operandFits, takeValue, operandBytes, takeWord_be]
  | bytes b =>
    have hb : b.length ≤ 255 := by cases f <;> simp_all [operandFits]
    have e : b.length % 256 = b.length := Nat.mod_eq_of_lt (by omega)
    have ht : takeCounted (operandBytes (.bytes b) ++ rest) = some (.bytes b, rest) := by
      simp [operandBytes, takeCounted, e, takeBytes_append]
    cases f <;> first | exact ht | simp [operandFits] at h

/-- What was taken as the operand of a family has the family's form and is what stood first (R158). -/
theorem takeValue_some {f : Family} {bs rest : List Byte} {v : Operand} (h : takeValue f bs = some (v, rest)) :
    bs = operandBytes v ++ rest ∧ operandFits f v = true := by
  have word : ∀ {v}, (takeWord bs).map (fun (w, rest) => (Operand.word w, rest)) = some (v, rest) →
      bs = operandBytes v ++ rest ∧ ∃ w, v = .word w := by
    intro v h
    simp only [Option.map_eq_some_iff, Prod.mk.injEq] at h
    obtain ⟨⟨w, r⟩, hw, rfl, rfl⟩ := h
    exact ⟨takeWord_some hw, w, rfl⟩
  have counted : ∀ {v}, takeCounted bs = some (v, rest) →
      bs = operandBytes v ++ rest ∧ ∃ b, v = .bytes b ∧ b.length ≤ 255 := by
    intro v h
    cases bs with
    | nil => cases h
    | cons l tl =>
      simp only [takeCounted, Option.map_eq_some_iff, Prod.mk.injEq] at h
      obtain ⟨⟨b, r⟩, hb, rfl, rfl⟩ := h
      obtain ⟨rfl, hl⟩ := takeBytes_some hb
      have := l.isLt
      refine ⟨?_, b, rfl, by omega⟩
      simp [operandBytes, hl]
  cases f <;> simp only [takeValue] at h
  case empty => cases h; exact ⟨rfl, rfl⟩
  all_goals first
    | obtain ⟨e, w, rfl⟩ := word h; exact ⟨e, rfl⟩
    | obtain ⟨e, b, rfl, hb⟩ := counted h; exact ⟨e, by simpa [operandFits] using hb⟩

/-- The fields of a CMDW are read back as they were written (R155). -/
theorem cmdw_fields (op : BitVec 4) (h : Header) :
    cmdwOp (cmdw op h) = op ∧ cmdwHeader (cmdw op h) = h := by
  cases h with
  | mk la opc opc2 slot flg =>
    simp only [cmdwOp, cmdwHeader, cmdw, Header.mk.injEq]
    refine ⟨?_, ?_, ?_, ?_, ?_, ?_⟩ <;>
    · ext i hi
      simp only [BitVec.getElem_extractLsb', BitVec.getLsbD_append]
      interval_cases i <;> simp [BitVec.getLsbD_eq_getElem]

/-- A CMDW is what its fields write (R155). -/
theorem cmdw_cmdwHeader (w : Word32) : cmdw (cmdwOp w) (cmdwHeader w) = w := by
  apply BitVec.eq_of_getLsbD_eq
  intro i hi
  simp only [cmdw, cmdwOp, cmdwHeader, BitVec.getLsbD_append, BitVec.getLsbD_extractLsb']
  interval_cases i <;> simp

/-- The fields of a TX_DONE header are read back as they were written (R157). -/
theorem txDoneHeader_fields (r : TxDoneRest) (tag ok : BitVec 1) :
    txDoneRest (txDoneHeader r tag ok) = r ∧ (txDoneHeader r tag ok).flg.getLsbD 1 = tag.getLsbD 0 ∧
      (txDoneHeader r tag ok).flg.getLsbD 0 = ok.getLsbD 0 := by
  cases r with
  | mk la opc opc2 slot hi =>
    refine ⟨?_, ?_, ?_⟩
    · simp only [txDoneRest, txDoneHeader, TxDoneRest.mk.injEq, true_and]
      ext i hi'
      simp only [BitVec.getElem_extractLsb', BitVec.getLsbD_append]
      interval_cases i <;> simp [BitVec.getLsbD_eq_getElem]
    · simp only [txDoneHeader, BitVec.getLsbD_append]
      simp [BitVec.getLsbD_eq_getElem]
    · simp only [txDoneHeader, BitVec.getLsbD_append]
      simp [BitVec.getLsbD_eq_getElem]

/-- A header is a TX_DONE header of its own tag and success bits (R157). -/
theorem txDoneHeader_txDoneRest (h : Header) :
    txDoneHeader (txDoneRest h) (BitVec.ofBool (h.flg.getLsbD 1)) (BitVec.ofBool (h.flg.getLsbD 0)) = h := by
  cases h with
  | mk la opc opc2 slot flg =>
    simp only [txDoneRest, txDoneHeader, Header.mk.injEq, true_and]
    ext i hi'
    simp only [BitVec.getElem_append]
    interval_cases i <;> simp [BitVec.getLsbD_eq_getElem]

/-- A frame of at most 14 parameter bytes decodes (R140). -/
theorem decodeFrame_cons {o : Byte} {p : List Byte} (h : p.length ≤ 14) : decodeFrame (o :: p) = .ok (frameInstr o p) := by
  have hl : ¬ frameMax < (o :: p).length := by simp only [frameMax, List.length_cons]; omega
  simp only [decodeFrame, if_neg hl]

end Sys2Proof
end

