-- ==== Sys2Proof/Laws/Codec.lean ====
section
/-! SUPPORT. What Serialize and Deserialize answer (spec/40_frame_codec.md R200, R201), said once for their callers. -/

namespace Sys2Proof.Machine

/-- Serialize answers ok = 1 with b exactly when b is the value's encoding, fits, and is not a forbidden empty payload. -/
theorem serialize_eq_some {v : Value} {m : Nat} {b : List Byte} :
    serialize v m = some b ↔
      b = encValue v ∧ b.length ≤ min m paramMax ∧ (0 < b.length ∨ v.family.emptyOk = true) := by
  unfold serialize
  simp only []
  split
  · constructor
    · intro h; cases h
    · rintro ⟨rfl, h, -⟩; omega
  · split
    · constructor
      · intro h
        simp only [Option.some.injEq] at h
        subst h
        exact ⟨rfl, by omega, by assumption⟩
      · rintro ⟨rfl, -, -⟩; rfl
    · constructor
      · intro h; cases h
      · rintro ⟨rfl, -, h⟩; contradiction

/-- Serialize as one test: the encoding fits and is not a forbidden empty payload. -/
theorem serialize_eq_ite (v : Value) (m : Nat) :
    serialize v m = if (encValue v).length ≤ min m 14 ∧ (0 < (encValue v).length ∨ v.family.emptyOk = true)
      then some (encValue v) else none := by
  split
  · exact serialize_eq_some.2 ⟨rfl, ‹_ ∧ _›⟩
  · rename_i h
    cases hs : serialize v m with
    | none => rfl
    | some b =>
      obtain ⟨rfl, hb⟩ := serialize_eq_some.1 hs
      exact absurd hb h

theorem serialize_length {v : Value} {m : Nat} {b : List Byte} (h : serialize v m = some b) : b.length ≤ 14 := by
  have h := (serialize_eq_some.1 h).2.1
  simp only [paramMax] at h
  omega

/-- The length of an encoding is the width of a fixed family (R143). -/
theorem encValue_length {v : Value} {w : Nat} (h : v.family.width = some w) : (encValue v).length = w := by
  cases v <;> simp only [Value.family, Family.width, Option.some.injEq, reduceCtorEq] at h
  all_goals
    rw [← h]
    simp [encValue]

/-- MemRead inside the bytes a codec was given (20_memory.md R104). -/
theorem paramRead_eq_ok {b c : List Byte} {addr n : Nat} :
    paramRead b addr n = .ok c ↔ addr + n ≤ b.length ∧ c = (b.drop addr).take n := by
  unfold paramRead
  by_cases h : addr + n ≤ b.length <;> simp [h, eq_comm (a := c)]

/-- Reading all the bytes a codec was given never faults. -/
@[simp] theorem paramRead_all (b : List Byte) : paramRead b 0 b.length = .ok b :=
  paramRead_eq_ok.2 ⟨by omega, by simp⟩

theorem decNumber_all {w : Nat} {b : List Byte} (h : b.length = w) : decNumber w b = .ok (unbe b) := by
  subst h
  simp [decNumber, Except.map]

/-- After the length check no byte is read past the ones given: decoding answers a value of the family (20_memory.md R104). -/
theorem decValue_ok {f : Family} {b : List Byte} (h : lengthOk f b.length = true) :
    ∃ v, decValue f b = .ok v ∧ v.family = f := by
  cases f <;> simp only [lengthOk, Family.width, beq_iff_eq] at h
  case language =>
    match b, h with
    | [b0, b1, b2], _ => exact ⟨.language b0 b1 b2, rfl, rfl⟩
  all_goals
    simp only [decValue, Except.map, paramRead_all, decNumber_all, h]
    exact ⟨_, rfl, rfl⟩

/-- Deserialize never faults (40_frame_codec.md R201, 20_memory.md R104). -/
theorem deserialize_ok (f : Family) (b : List Byte) : ∃ r, deserialize f b = .ok r := by
  unfold deserialize
  split
  · obtain ⟨v, hv, -⟩ := decValue_ok (f := f) ‹_›
    exact ⟨some v, by rw [hv]; rfl⟩
  · exact ⟨none, rfl⟩

/-- Deserialize answers ok = 1 with v exactly when the length is right and v is what the bytes decode to. -/
theorem deserialize_eq_some {f : Family} {b : List Byte} {v : Value} :
    deserialize f b = .ok (some v) ↔ lengthOk f b.length = true ∧ decValue f b = .ok v := by
  unfold deserialize
  by_cases hl : lengthOk f b.length = true
  · simp only [hl, if_true, true_and]
    cases decValue f b <;> simp [Except.map]
  · simp [hl]

/-- Deserialize answers ok = 0 exactly when the length is wrong. -/
theorem deserialize_eq_none {f : Family} {b : List Byte} :
    deserialize f b = .ok none ↔ lengthOk f b.length = false := by
  unfold deserialize
  by_cases hl : lengthOk f b.length = true
  · simp only [hl, if_true]
    cases decValue f b <;> simp [Except.map]
  · simp [hl]

/-- A decoded value is a value of its family (00_scope.md R11); OSD_NAME_MAX is at least 14 (R7). -/
theorem deserialize_legal {f : Family} {b : List Byte} {v : Value} {m : Nat} (hm : 14 ≤ m)
    (h : deserialize f b = .ok (some v)) : v.family = f ∧ v.legal m = true := by
  obtain ⟨hl, hv⟩ := deserialize_eq_some.1 h
  obtain ⟨v', hv', hf⟩ := decValue_ok hl
  obtain rfl : v' = v := by simpa [hv'] using hv
  refine ⟨hf, ?_⟩
  cases f <;> cases v' <;> simp only [Value.family, reduceCtorEq] at hf <;> try rfl
  all_goals
    simp only [decValue, paramRead_all, Except.map, Except.ok.injEq, Value.osdName.injEq, Value.raw.injEq] at hv
    subst hv
    simp only [lengthOk, Family.width, paramMax, decide_eq_true_eq] at hl
    simp only [Value.legal, paramMax, decide_eq_true_eq]
    omega

theorem narrow_eq_some {w : Nat} {v : Word32} {x : BitVec w} :
    narrow w v = some x ↔ v.toNat < 2 ^ w ∧ x = v.setWidth w := by
  unfold narrow
  by_cases hv : v.toNat < 2 ^ w <;> simp [hv, eq_comm (a := x)]

/-- A VALUE operand that is valid spells a value of the family (R158). -/
theorem operandValue_legal {m : Nat} {f : Family} {o : Operand} {v : Value} (h : operandValue m f o = some v) :
    v.family = f ∧ v.legal m = true := by
  unfold operandValue at h
  split at h <;>
    simp only [Option.map_eq_some_iff, Option.some.injEq, Option.ite_none_right_eq_some, reduceCtorEq] at h
  all_goals first
    | (subst h; exact ⟨rfl, rfl⟩)
    | (obtain ⟨x, -, rfl⟩ := h; exact ⟨rfl, rfl⟩)
    | (obtain ⟨hl, rfl⟩ := h; exact ⟨rfl, by simpa [Value.legal] using hl⟩)

end Sys2Proof.Machine
end

