-- ==== Sys2Proof/Laws/State.lean ====
section
/-! SUPPORT. One lemma per field per update of State: what each update writes, and that it leaves every other field alone. -/

namespace Sys2Proof.Machine

variable (s : State)

/-! ## respond -/

@[simp] theorem respond_config (p : Port) (r : Response) : (respond p r s).config = s.config := rfl
@[simp] theorem respond_st (p : Port) (r : Response) : (respond p r s).st = s.st := rfl
@[simp] theorem respond_curValid (p : Port) (r : Response) : (respond p r s).curValid = s.curValid := rfl
@[simp] theorem respond_curSlot (p : Port) (r : Response) : (respond p r s).curSlot = s.curSlot := rfl
@[simp] theorem respond_curDest (p : Port) (r : Response) : (respond p r s).curDest = s.curDest := rfl
@[simp] theorem respond_owner (p : Port) (r : Response) : (respond p r s).owner = s.owner := rfl
@[simp] theorem respond_waitMs (p : Port) (r : Response) : (respond p r s).waitMs = s.waitMs := rfl
@[simp] theorem respond_elapsed (p : Port) (r : Response) : (respond p r s).elapsed = s.elapsed := rfl
@[simp] theorem respond_timerRun (p : Port) (r : Response) : (respond p r s).timerRun = s.timerRun := rfl
@[simp] theorem respond_txXResult (p : Port) (r : Response) : (respond p r s).txXResult = s.txXResult := rfl
@[simp] theorem respond_replySink (p : Port) (r : Response) : (respond p r s).replySink = s.replySink := rfl
@[simp] theorem respond_inboundSink (p : Port) (r : Response) : (respond p r s).inboundSink = s.inboundSink := rfl
@[simp] theorem respond_regConflict (p : Port) (r : Response) : (respond p r s).regConflict = s.regConflict := rfl
@[simp] theorem respond_slots (p : Port) (r : Response) : (respond p r s).slots = s.slots := rfl
@[simp] theorem respond_reg (p : Port) (r : Response) : (respond p r s).reg = s.reg := rfl
@[simp] theorem respond_txx (p : Port) (r : Response) : (respond p r s).txx = s.txx := rfl
@[simp] theorem respond_txa (p : Port) (r : Response) : (respond p r s).txa = s.txa := rfl
@[simp] theorem respond_ports (p : Port) (r : Response) : (respond p r s).ports = s.ports := rfl
@[simp] theorem respond_cscr (p : Port) (r : Response) : (respond p r s).cscr = s.cscr := rfl
@[simp] theorem respond_issuer (p : Port) (r : Response) : (respond p r s).issuer = s.issuer := rfl
@[simp] theorem respond_rxInit (p : Port) (r : Response) : (respond p r s).rxInit = s.rxInit := rfl
@[simp] theorem respond_freeCount (p : Port) (r : Response) : (respond p r s).freeCount = s.freeCount := rfl
@[simp] theorem respond_env (p : Port) (r : Response) : (respond p r s).env = s.env := rfl
@[simp] theorem respond_outputs (p : Port) (r : Response) : (respond p r s).outputs = s.outputs ++ [{ port := p, resp := r }] := rfl

/-! ## raise -/

@[simp] theorem raise_config (p : Port) (e : Result) : (raise p e s).config = s.config := rfl
@[simp] theorem raise_st (p : Port) (e : Result) : (raise p e s).st = s.st := rfl
@[simp] theorem raise_curValid (p : Port) (e : Result) : (raise p e s).curValid = s.curValid := rfl
@[simp] theorem raise_curSlot (p : Port) (e : Result) : (raise p e s).curSlot = s.curSlot := rfl
@[simp] theorem raise_curDest (p : Port) (e : Result) : (raise p e s).curDest = s.curDest := rfl
@[simp] theorem raise_owner (p : Port) (e : Result) : (raise p e s).owner = s.owner := rfl
@[simp] theorem raise_waitMs (p : Port) (e : Result) : (raise p e s).waitMs = s.waitMs := rfl
@[simp] theorem raise_elapsed (p : Port) (e : Result) : (raise p e s).elapsed = s.elapsed := rfl
@[simp] theorem raise_timerRun (p : Port) (e : Result) : (raise p e s).timerRun = s.timerRun := rfl
@[simp] theorem raise_txXResult (p : Port) (e : Result) : (raise p e s).txXResult = s.txXResult := rfl
@[simp] theorem raise_replySink (p : Port) (e : Result) : (raise p e s).replySink = s.replySink := rfl
@[simp] theorem raise_inboundSink (p : Port) (e : Result) : (raise p e s).inboundSink = s.inboundSink := rfl
@[simp] theorem raise_regConflict (p : Port) (e : Result) : (raise p e s).regConflict = s.regConflict := rfl
@[simp] theorem raise_slots (p : Port) (e : Result) : (raise p e s).slots = s.slots := rfl
@[simp] theorem raise_reg (p : Port) (e : Result) : (raise p e s).reg = s.reg := rfl
@[simp] theorem raise_txx (p : Port) (e : Result) : (raise p e s).txx = s.txx := rfl
@[simp] theorem raise_txa (p : Port) (e : Result) : (raise p e s).txa = s.txa := rfl
@[simp] theorem raise_ports (p : Port) (e : Result) : (raise p e s).ports = s.ports := rfl
@[simp] theorem raise_cscr (p : Port) (e : Result) : (raise p e s).cscr = s.cscr := rfl
@[simp] theorem raise_issuer (p : Port) (e : Result) : (raise p e s).issuer = s.issuer := rfl
@[simp] theorem raise_rxInit (p : Port) (e : Result) : (raise p e s).rxInit = s.rxInit := rfl
@[simp] theorem raise_freeCount (p : Port) (e : Result) : (raise p e s).freeCount = s.freeCount := rfl
@[simp] theorem raise_env (p : Port) (e : Result) : (raise p e s).env = s.env := rfl
@[simp] theorem raise_outputs (p : Port) (e : Result) : (raise p e s).outputs = s.outputs ++ [{ port := p, resp := { result := e, info := 0, tail := [] } }] := rfl

/-! ## respondOk -/

@[simp] theorem respondOk_config (p : Port) : (respondOk p s).config = s.config := rfl
@[simp] theorem respondOk_st (p : Port) : (respondOk p s).st = s.st := rfl
@[simp] theorem respondOk_curValid (p : Port) : (respondOk p s).curValid = s.curValid := rfl
@[simp] theorem respondOk_curSlot (p : Port) : (respondOk p s).curSlot = s.curSlot := rfl
@[simp] theorem respondOk_curDest (p : Port) : (respondOk p s).curDest = s.curDest := rfl
@[simp] theorem respondOk_owner (p : Port) : (respondOk p s).owner = s.owner := rfl
@[simp] theorem respondOk_waitMs (p : Port) : (respondOk p s).waitMs = s.waitMs := rfl
@[simp] theorem respondOk_elapsed (p : Port) : (respondOk p s).elapsed = s.elapsed := rfl
@[simp] theorem respondOk_timerRun (p : Port) : (respondOk p s).timerRun = s.timerRun := rfl
@[simp] theorem respondOk_txXResult (p : Port) : (respondOk p s).txXResult = s.txXResult := rfl
@[simp] theorem respondOk_replySink (p : Port) : (respondOk p s).replySink = s.replySink := rfl
@[simp] theorem respondOk_inboundSink (p : Port) : (respondOk p s).inboundSink = s.inboundSink := rfl
@[simp] theorem respondOk_regConflict (p : Port) : (respondOk p s).regConflict = s.regConflict := rfl
@[simp] theorem respondOk_slots (p : Port) : (respondOk p s).slots = s.slots := rfl
@[simp] theorem respondOk_reg (p : Port) : (respondOk p s).reg = s.reg := rfl
@[simp] theorem respondOk_txx (p : Port) : (respondOk p s).txx = s.txx := rfl
@[simp] theorem respondOk_txa (p : Port) : (respondOk p s).txa = s.txa := rfl
@[simp] theorem respondOk_ports (p : Port) : (respondOk p s).ports = s.ports := rfl
@[simp] theorem respondOk_cscr (p : Port) : (respondOk p s).cscr = s.cscr := rfl
@[simp] theorem respondOk_issuer (p : Port) : (respondOk p s).issuer = s.issuer := rfl
@[simp] theorem respondOk_rxInit (p : Port) : (respondOk p s).rxInit = s.rxInit := rfl
@[simp] theorem respondOk_freeCount (p : Port) : (respondOk p s).freeCount = s.freeCount := rfl
@[simp] theorem respondOk_env (p : Port) : (respondOk p s).env = s.env := rfl
@[simp] theorem respondOk_outputs (p : Port) : (respondOk p s).outputs = s.outputs ++ [{ port := p, resp := { result := .none, info := 0, tail := [] } }] := rfl

/-! ## writeSlot -/

@[simp] theorem writeSlot_config (k : BitVec 4) (x : Slot) : (writeSlot k x s).config = s.config := rfl
@[simp] theorem writeSlot_st (k : BitVec 4) (x : Slot) : (writeSlot k x s).st = s.st := rfl
@[simp] theorem writeSlot_curValid (k : BitVec 4) (x : Slot) : (writeSlot k x s).curValid = s.curValid := rfl
@[simp] theorem writeSlot_curSlot (k : BitVec 4) (x : Slot) : (writeSlot k x s).curSlot = s.curSlot := rfl
@[simp] theorem writeSlot_curDest (k : BitVec 4) (x : Slot) : (writeSlot k x s).curDest = s.curDest := rfl
@[simp] theorem writeSlot_owner (k : BitVec 4) (x : Slot) : (writeSlot k x s).owner = s.owner := rfl
@[simp] theorem writeSlot_waitMs (k : BitVec 4) (x : Slot) : (writeSlot k x s).waitMs = s.waitMs := rfl
@[simp] theorem writeSlot_elapsed (k : BitVec 4) (x : Slot) : (writeSlot k x s).elapsed = s.elapsed := rfl
@[simp] theorem writeSlot_timerRun (k : BitVec 4) (x : Slot) : (writeSlot k x s).timerRun = s.timerRun := rfl
@[simp] theorem writeSlot_txXResult (k : BitVec 4) (x : Slot) : (writeSlot k x s).txXResult = s.txXResult := rfl
@[simp] theorem writeSlot_replySink (k : BitVec 4) (x : Slot) : (writeSlot k x s).replySink = s.replySink := rfl
@[simp] theorem writeSlot_inboundSink (k : BitVec 4) (x : Slot) : (writeSlot k x s).inboundSink = s.inboundSink := rfl
@[simp] theorem writeSlot_regConflict (k : BitVec 4) (x : Slot) : (writeSlot k x s).regConflict = s.regConflict := rfl
@[simp] theorem writeSlot_slots (k : BitVec 4) (x : Slot) : (writeSlot k x s).slots = s.slots.set k.toNat x := rfl
@[simp] theorem writeSlot_reg (k : BitVec 4) (x : Slot) : (writeSlot k x s).reg = s.reg := rfl
@[simp] theorem writeSlot_txx (k : BitVec 4) (x : Slot) : (writeSlot k x s).txx = s.txx := rfl
@[simp] theorem writeSlot_txa (k : BitVec 4) (x : Slot) : (writeSlot k x s).txa = s.txa := rfl
@[simp] theorem writeSlot_ports (k : BitVec 4) (x : Slot) : (writeSlot k x s).ports = s.ports := rfl
@[simp] theorem writeSlot_cscr (k : BitVec 4) (x : Slot) : (writeSlot k x s).cscr = s.cscr := rfl
@[simp] theorem writeSlot_issuer (k : BitVec 4) (x : Slot) : (writeSlot k x s).issuer = s.issuer := rfl
@[simp] theorem writeSlot_rxInit (k : BitVec 4) (x : Slot) : (writeSlot k x s).rxInit = s.rxInit := rfl
@[simp] theorem writeSlot_freeCount (k : BitVec 4) (x : Slot) : (writeSlot k x s).freeCount = s.freeCount := rfl
@[simp] theorem writeSlot_env (k : BitVec 4) (x : Slot) : (writeSlot k x s).env = s.env := rfl
@[simp] theorem writeSlot_outputs (k : BitVec 4) (x : Slot) : (writeSlot k x s).outputs = s.outputs := rfl

/-! ## writeReg -/

@[simp] theorem writeReg_config (o : Byte) (e : RegEntry) : (writeReg o e s).config = s.config := rfl
@[simp] theorem writeReg_st (o : Byte) (e : RegEntry) : (writeReg o e s).st = s.st := rfl
@[simp] theorem writeReg_curValid (o : Byte) (e : RegEntry) : (writeReg o e s).curValid = s.curValid := rfl
@[simp] theorem writeReg_curSlot (o : Byte) (e : RegEntry) : (writeReg o e s).curSlot = s.curSlot := rfl
@[simp] theorem writeReg_curDest (o : Byte) (e : RegEntry) : (writeReg o e s).curDest = s.curDest := rfl
@[simp] theorem writeReg_owner (o : Byte) (e : RegEntry) : (writeReg o e s).owner = s.owner := rfl
@[simp] theorem writeReg_waitMs (o : Byte) (e : RegEntry) : (writeReg o e s).waitMs = s.waitMs := rfl
@[simp] theorem writeReg_elapsed (o : Byte) (e : RegEntry) : (writeReg o e s).elapsed = s.elapsed := rfl
@[simp] theorem writeReg_timerRun (o : Byte) (e : RegEntry) : (writeReg o e s).timerRun = s.timerRun := rfl
@[simp] theorem writeReg_txXResult (o : Byte) (e : RegEntry) : (writeReg o e s).txXResult = s.txXResult := rfl
@[simp] theorem writeReg_replySink (o : Byte) (e : RegEntry) : (writeReg o e s).replySink = s.replySink := rfl
@[simp] theorem writeReg_inboundSink (o : Byte) (e : RegEntry) : (writeReg o e s).inboundSink = s.inboundSink := rfl
@[simp] theorem writeReg_regConflict (o : Byte) (e : RegEntry) : (writeReg o e s).regConflict = s.regConflict := rfl
@[simp] theorem writeReg_slots (o : Byte) (e : RegEntry) : (writeReg o e s).slots = s.slots := rfl
@[simp] theorem writeReg_reg (o : Byte) (e : RegEntry) : (writeReg o e s).reg = s.reg.set o.toNat e o.isLt := rfl
@[simp] theorem writeReg_txx (o : Byte) (e : RegEntry) : (writeReg o e s).txx = s.txx := rfl
@[simp] theorem writeReg_txa (o : Byte) (e : RegEntry) : (writeReg o e s).txa = s.txa := rfl
@[simp] theorem writeReg_ports (o : Byte) (e : RegEntry) : (writeReg o e s).ports = s.ports := rfl
@[simp] theorem writeReg_cscr (o : Byte) (e : RegEntry) : (writeReg o e s).cscr = s.cscr := rfl
@[simp] theorem writeReg_issuer (o : Byte) (e : RegEntry) : (writeReg o e s).issuer = s.issuer := rfl
@[simp] theorem writeReg_rxInit (o : Byte) (e : RegEntry) : (writeReg o e s).rxInit = s.rxInit := rfl
@[simp] theorem writeReg_freeCount (o : Byte) (e : RegEntry) : (writeReg o e s).freeCount = s.freeCount := rfl
@[simp] theorem writeReg_env (o : Byte) (e : RegEntry) : (writeReg o e s).env = s.env := rfl
@[simp] theorem writeReg_outputs (o : Byte) (e : RegEntry) : (writeReg o e s).outputs = s.outputs := rfl

/-! ## useFree -/

@[simp] theorem useFree_config : (useFree s).config = s.config := rfl
@[simp] theorem useFree_st : (useFree s).st = s.st := rfl
@[simp] theorem useFree_curValid : (useFree s).curValid = s.curValid := rfl
@[simp] theorem useFree_curSlot : (useFree s).curSlot = s.curSlot := rfl
@[simp] theorem useFree_curDest : (useFree s).curDest = s.curDest := rfl
@[simp] theorem useFree_owner : (useFree s).owner = s.owner := rfl
@[simp] theorem useFree_waitMs : (useFree s).waitMs = s.waitMs := rfl
@[simp] theorem useFree_elapsed : (useFree s).elapsed = s.elapsed := rfl
@[simp] theorem useFree_timerRun : (useFree s).timerRun = s.timerRun := rfl
@[simp] theorem useFree_txXResult : (useFree s).txXResult = s.txXResult := rfl
@[simp] theorem useFree_replySink : (useFree s).replySink = s.replySink := rfl
@[simp] theorem useFree_inboundSink : (useFree s).inboundSink = s.inboundSink := rfl
@[simp] theorem useFree_regConflict : (useFree s).regConflict = s.regConflict := rfl
@[simp] theorem useFree_slots : (useFree s).slots = s.slots := rfl
@[simp] theorem useFree_reg : (useFree s).reg = s.reg := rfl
@[simp] theorem useFree_txx : (useFree s).txx = s.txx := rfl
@[simp] theorem useFree_txa : (useFree s).txa = s.txa := rfl
@[simp] theorem useFree_ports : (useFree s).ports = s.ports := rfl
@[simp] theorem useFree_cscr : (useFree s).cscr = s.cscr := rfl
@[simp] theorem useFree_issuer : (useFree s).issuer = s.issuer := rfl
@[simp] theorem useFree_rxInit : (useFree s).rxInit = s.rxInit := rfl
@[simp] theorem useFree_freeCount : (useFree s).freeCount = s.freeCount + 1 := rfl
@[simp] theorem useFree_env : (useFree s).env = s.env := rfl
@[simp] theorem useFree_outputs : (useFree s).outputs = s.outputs := rfl

/-! ## setPhase -/

@[simp] theorem setPhase_config (c : Nat) (p : Phase) : (setPhase c p s).config = s.config := rfl
@[simp] theorem setPhase_st (c : Nat) (p : Phase) : (setPhase c p s).st = s.st := rfl
@[simp] theorem setPhase_curValid (c : Nat) (p : Phase) : (setPhase c p s).curValid = s.curValid := rfl
@[simp] theorem setPhase_curSlot (c : Nat) (p : Phase) : (setPhase c p s).curSlot = s.curSlot := rfl
@[simp] theorem setPhase_curDest (c : Nat) (p : Phase) : (setPhase c p s).curDest = s.curDest := rfl
@[simp] theorem setPhase_owner (c : Nat) (p : Phase) : (setPhase c p s).owner = s.owner := rfl
@[simp] theorem setPhase_waitMs (c : Nat) (p : Phase) : (setPhase c p s).waitMs = s.waitMs := rfl
@[simp] theorem setPhase_elapsed (c : Nat) (p : Phase) : (setPhase c p s).elapsed = s.elapsed := rfl
@[simp] theorem setPhase_timerRun (c : Nat) (p : Phase) : (setPhase c p s).timerRun = s.timerRun := rfl
@[simp] theorem setPhase_txXResult (c : Nat) (p : Phase) : (setPhase c p s).txXResult = s.txXResult := rfl
@[simp] theorem setPhase_replySink (c : Nat) (p : Phase) : (setPhase c p s).replySink = s.replySink := rfl
@[simp] theorem setPhase_inboundSink (c : Nat) (p : Phase) : (setPhase c p s).inboundSink = s.inboundSink := rfl
@[simp] theorem setPhase_regConflict (c : Nat) (p : Phase) : (setPhase c p s).regConflict = s.regConflict := rfl
@[simp] theorem setPhase_slots (c : Nat) (p : Phase) : (setPhase c p s).slots = s.slots := rfl
@[simp] theorem setPhase_reg (c : Nat) (p : Phase) : (setPhase c p s).reg = s.reg := rfl
@[simp] theorem setPhase_txx (c : Nat) (p : Phase) : (setPhase c p s).txx = s.txx := rfl
@[simp] theorem setPhase_txa (c : Nat) (p : Phase) : (setPhase c p s).txa = s.txa := rfl
@[simp] theorem setPhase_ports (c : Nat) (p : Phase) : (setPhase c p s).ports = s.ports.modify c fun q => { q with phase := p } := rfl
@[simp] theorem setPhase_cscr (c : Nat) (p : Phase) : (setPhase c p s).cscr = s.cscr := rfl
@[simp] theorem setPhase_issuer (c : Nat) (p : Phase) : (setPhase c p s).issuer = s.issuer := rfl
@[simp] theorem setPhase_rxInit (c : Nat) (p : Phase) : (setPhase c p s).rxInit = s.rxInit := rfl
@[simp] theorem setPhase_freeCount (c : Nat) (p : Phase) : (setPhase c p s).freeCount = s.freeCount := rfl
@[simp] theorem setPhase_env (c : Nat) (p : Phase) : (setPhase c p s).env = s.env := rfl
@[simp] theorem setPhase_outputs (c : Nat) (p : Phase) : (setPhase c p s).outputs = s.outputs := rfl

/-! ## setAdmitWait -/

@[simp] theorem setAdmitWait_config (c : Nat) (l : Latch) : (setAdmitWait c l s).config = s.config := rfl
@[simp] theorem setAdmitWait_st (c : Nat) (l : Latch) : (setAdmitWait c l s).st = s.st := rfl
@[simp] theorem setAdmitWait_curValid (c : Nat) (l : Latch) : (setAdmitWait c l s).curValid = s.curValid := rfl
@[simp] theorem setAdmitWait_curSlot (c : Nat) (l : Latch) : (setAdmitWait c l s).curSlot = s.curSlot := rfl
@[simp] theorem setAdmitWait_curDest (c : Nat) (l : Latch) : (setAdmitWait c l s).curDest = s.curDest := rfl
@[simp] theorem setAdmitWait_owner (c : Nat) (l : Latch) : (setAdmitWait c l s).owner = s.owner := rfl
@[simp] theorem setAdmitWait_waitMs (c : Nat) (l : Latch) : (setAdmitWait c l s).waitMs = s.waitMs := rfl
@[simp] theorem setAdmitWait_elapsed (c : Nat) (l : Latch) : (setAdmitWait c l s).elapsed = s.elapsed := rfl
@[simp] theorem setAdmitWait_timerRun (c : Nat) (l : Latch) : (setAdmitWait c l s).timerRun = s.timerRun := rfl
@[simp] theorem setAdmitWait_txXResult (c : Nat) (l : Latch) : (setAdmitWait c l s).txXResult = s.txXResult := rfl
@[simp] theorem setAdmitWait_replySink (c : Nat) (l : Latch) : (setAdmitWait c l s).replySink = s.replySink := rfl
@[simp] theorem setAdmitWait_inboundSink (c : Nat) (l : Latch) : (setAdmitWait c l s).inboundSink = s.inboundSink := rfl
@[simp] theorem setAdmitWait_regConflict (c : Nat) (l : Latch) : (setAdmitWait c l s).regConflict = s.regConflict := rfl
@[simp] theorem setAdmitWait_slots (c : Nat) (l : Latch) : (setAdmitWait c l s).slots = s.slots := rfl
@[simp] theorem setAdmitWait_reg (c : Nat) (l : Latch) : (setAdmitWait c l s).reg = s.reg := rfl
@[simp] theorem setAdmitWait_txx (c : Nat) (l : Latch) : (setAdmitWait c l s).txx = s.txx := rfl
@[simp] theorem setAdmitWait_txa (c : Nat) (l : Latch) : (setAdmitWait c l s).txa = s.txa := rfl
@[simp] theorem setAdmitWait_ports (c : Nat) (l : Latch) : (setAdmitWait c l s).ports = s.ports.modify c fun _ => { phase := .admitWait, latch := l } := rfl
@[simp] theorem setAdmitWait_cscr (c : Nat) (l : Latch) : (setAdmitWait c l s).cscr = s.cscr := rfl
@[simp] theorem setAdmitWait_issuer (c : Nat) (l : Latch) : (setAdmitWait c l s).issuer = s.issuer := rfl
@[simp] theorem setAdmitWait_rxInit (c : Nat) (l : Latch) : (setAdmitWait c l s).rxInit = s.rxInit := rfl
@[simp] theorem setAdmitWait_freeCount (c : Nat) (l : Latch) : (setAdmitWait c l s).freeCount = s.freeCount := rfl
@[simp] theorem setAdmitWait_env (c : Nat) (l : Latch) : (setAdmitWait c l s).env = s.env := rfl
@[simp] theorem setAdmitWait_outputs (c : Nat) (l : Latch) : (setAdmitWait c l s).outputs = s.outputs := rfl

/-! ## endTransaction -/

@[simp] theorem endTransaction_config (e : AdapterState) : (endTransaction e s).config = s.config := rfl
@[simp] theorem endTransaction_st (e : AdapterState) : (endTransaction e s).st = e := rfl
@[simp] theorem endTransaction_curValid (e : AdapterState) : (endTransaction e s).curValid = false := rfl
@[simp] theorem endTransaction_curSlot (e : AdapterState) : (endTransaction e s).curSlot = s.curSlot := rfl
@[simp] theorem endTransaction_curDest (e : AdapterState) : (endTransaction e s).curDest = s.curDest := rfl
@[simp] theorem endTransaction_owner (e : AdapterState) : (endTransaction e s).owner = s.owner := rfl
@[simp] theorem endTransaction_waitMs (e : AdapterState) : (endTransaction e s).waitMs = s.waitMs := rfl
@[simp] theorem endTransaction_elapsed (e : AdapterState) : (endTransaction e s).elapsed = s.elapsed := rfl
@[simp] theorem endTransaction_timerRun (e : AdapterState) : (endTransaction e s).timerRun = false := rfl
@[simp] theorem endTransaction_txXResult (e : AdapterState) : (endTransaction e s).txXResult = s.txXResult := rfl
@[simp] theorem endTransaction_replySink (e : AdapterState) : (endTransaction e s).replySink = s.replySink := rfl
@[simp] theorem endTransaction_inboundSink (e : AdapterState) : (endTransaction e s).inboundSink = s.inboundSink := rfl
@[simp] theorem endTransaction_regConflict (e : AdapterState) : (endTransaction e s).regConflict = s.regConflict := rfl
@[simp] theorem endTransaction_slots (e : AdapterState) : (endTransaction e s).slots = s.slots := rfl
@[simp] theorem endTransaction_reg (e : AdapterState) : (endTransaction e s).reg = s.reg := rfl
@[simp] theorem endTransaction_txx (e : AdapterState) : (endTransaction e s).txx = s.txx := rfl
@[simp] theorem endTransaction_txa (e : AdapterState) : (endTransaction e s).txa = s.txa := rfl
@[simp] theorem endTransaction_ports (e : AdapterState) : (endTransaction e s).ports = s.ports := rfl
@[simp] theorem endTransaction_cscr (e : AdapterState) : (endTransaction e s).cscr = s.cscr := rfl
@[simp] theorem endTransaction_issuer (e : AdapterState) : (endTransaction e s).issuer = s.issuer := rfl
@[simp] theorem endTransaction_rxInit (e : AdapterState) : (endTransaction e s).rxInit = s.rxInit := rfl
@[simp] theorem endTransaction_freeCount (e : AdapterState) : (endTransaction e s).freeCount = s.freeCount := rfl
@[simp] theorem endTransaction_env (e : AdapterState) : (endTransaction e s).env = s.env := rfl
@[simp] theorem endTransaction_outputs (e : AdapterState) : (endTransaction e s).outputs = s.outputs := rfl

/-! ## takeTurn -/

@[simp] theorem takeTurn_config (rest : List Move) : (takeTurn rest s).config = s.config := rfl
@[simp] theorem takeTurn_st (rest : List Move) : (takeTurn rest s).st = s.st := rfl
@[simp] theorem takeTurn_curValid (rest : List Move) : (takeTurn rest s).curValid = s.curValid := rfl
@[simp] theorem takeTurn_curSlot (rest : List Move) : (takeTurn rest s).curSlot = s.curSlot := rfl
@[simp] theorem takeTurn_curDest (rest : List Move) : (takeTurn rest s).curDest = s.curDest := rfl
@[simp] theorem takeTurn_owner (rest : List Move) : (takeTurn rest s).owner = s.owner := rfl
@[simp] theorem takeTurn_waitMs (rest : List Move) : (takeTurn rest s).waitMs = s.waitMs := rfl
@[simp] theorem takeTurn_elapsed (rest : List Move) : (takeTurn rest s).elapsed = s.elapsed := rfl
@[simp] theorem takeTurn_timerRun (rest : List Move) : (takeTurn rest s).timerRun = s.timerRun := rfl
@[simp] theorem takeTurn_txXResult (rest : List Move) : (takeTurn rest s).txXResult = s.txXResult := rfl
@[simp] theorem takeTurn_replySink (rest : List Move) : (takeTurn rest s).replySink = s.replySink := rfl
@[simp] theorem takeTurn_inboundSink (rest : List Move) : (takeTurn rest s).inboundSink = s.inboundSink := rfl
@[simp] theorem takeTurn_regConflict (rest : List Move) : (takeTurn rest s).regConflict = s.regConflict := rfl
@[simp] theorem takeTurn_slots (rest : List Move) : (takeTurn rest s).slots = s.slots := rfl
@[simp] theorem takeTurn_reg (rest : List Move) : (takeTurn rest s).reg = s.reg := rfl
@[simp] theorem takeTurn_txx (rest : List Move) : (takeTurn rest s).txx = s.txx := rfl
@[simp] theorem takeTurn_txa (rest : List Move) : (takeTurn rest s).txa = s.txa := rfl
@[simp] theorem takeTurn_ports (rest : List Move) : (takeTurn rest s).ports = s.ports := rfl
@[simp] theorem takeTurn_cscr (rest : List Move) : (takeTurn rest s).cscr = s.cscr := rfl
@[simp] theorem takeTurn_issuer (rest : List Move) : (takeTurn rest s).issuer = s.issuer := rfl
@[simp] theorem takeTurn_rxInit (rest : List Move) : (takeTurn rest s).rxInit = s.rxInit := rfl
@[simp] theorem takeTurn_freeCount (rest : List Move) : (takeTurn rest s).freeCount = s.freeCount := rfl
@[simp] theorem takeTurn_env (rest : List Move) : (takeTurn rest s).env = { s.env with schedule := rest } := rfl
@[simp] theorem takeTurn_outputs (rest : List Move) : (takeTurn rest s).outputs = s.outputs := rfl

/-! ## setPortBytes -/

@[simp] theorem setPortBytes_config (p : Port) (rest : List Byte) : (setPortBytes p rest s).config = s.config := by cases p <;> rfl
@[simp] theorem setPortBytes_st (p : Port) (rest : List Byte) : (setPortBytes p rest s).st = s.st := by cases p <;> rfl
@[simp] theorem setPortBytes_curValid (p : Port) (rest : List Byte) : (setPortBytes p rest s).curValid = s.curValid := by cases p <;> rfl
@[simp] theorem setPortBytes_curSlot (p : Port) (rest : List Byte) : (setPortBytes p rest s).curSlot = s.curSlot := by cases p <;> rfl
@[simp] theorem setPortBytes_curDest (p : Port) (rest : List Byte) : (setPortBytes p rest s).curDest = s.curDest := by cases p <;> rfl
@[simp] theorem setPortBytes_owner (p : Port) (rest : List Byte) : (setPortBytes p rest s).owner = s.owner := by cases p <;> rfl
@[simp] theorem setPortBytes_waitMs (p : Port) (rest : List Byte) : (setPortBytes p rest s).waitMs = s.waitMs := by cases p <;> rfl
@[simp] theorem setPortBytes_elapsed (p : Port) (rest : List Byte) : (setPortBytes p rest s).elapsed = s.elapsed := by cases p <;> rfl
@[simp] theorem setPortBytes_timerRun (p : Port) (rest : List Byte) : (setPortBytes p rest s).timerRun = s.timerRun := by cases p <;> rfl
@[simp] theorem setPortBytes_txXResult (p : Port) (rest : List Byte) : (setPortBytes p rest s).txXResult = s.txXResult := by cases p <;> rfl
@[simp] theorem setPortBytes_replySink (p : Port) (rest : List Byte) : (setPortBytes p rest s).replySink = s.replySink := by cases p <;> rfl
@[simp] theorem setPortBytes_inboundSink (p : Port) (rest : List Byte) : (setPortBytes p rest s).inboundSink = s.inboundSink := by cases p <;> rfl
@[simp] theorem setPortBytes_regConflict (p : Port) (rest : List Byte) : (setPortBytes p rest s).regConflict = s.regConflict := by cases p <;> rfl
@[simp] theorem setPortBytes_slots (p : Port) (rest : List Byte) : (setPortBytes p rest s).slots = s.slots := by cases p <;> rfl
@[simp] theorem setPortBytes_reg (p : Port) (rest : List Byte) : (setPortBytes p rest s).reg = s.reg := by cases p <;> rfl
@[simp] theorem setPortBytes_txx (p : Port) (rest : List Byte) : (setPortBytes p rest s).txx = s.txx := by cases p <;> rfl
@[simp] theorem setPortBytes_txa (p : Port) (rest : List Byte) : (setPortBytes p rest s).txa = s.txa := by cases p <;> rfl
@[simp] theorem setPortBytes_ports (p : Port) (rest : List Byte) : (setPortBytes p rest s).ports = s.ports := by cases p <;> rfl
@[simp] theorem setPortBytes_cscr (p : Port) (rest : List Byte) : (setPortBytes p rest s).cscr = s.cscr := by cases p <;> rfl
@[simp] theorem setPortBytes_issuer (p : Port) (rest : List Byte) : (setPortBytes p rest s).issuer = s.issuer := by cases p <;> rfl
@[simp] theorem setPortBytes_rxInit (p : Port) (rest : List Byte) : (setPortBytes p rest s).rxInit = s.rxInit := by cases p <;> rfl
@[simp] theorem setPortBytes_freeCount (p : Port) (rest : List Byte) : (setPortBytes p rest s).freeCount = s.freeCount := by cases p <;> rfl
@[simp] theorem setPortBytes_outputs (p : Port) (rest : List Byte) : (setPortBytes p rest s).outputs = s.outputs := by cases p <;> rfl

/-! ## issueFrom -/

@[simp] theorem issueFrom_config (p : Port) (rest : List Byte) : (issueFrom p rest s).config = s.config := by cases p <;> rfl
@[simp] theorem issueFrom_st (p : Port) (rest : List Byte) : (issueFrom p rest s).st = s.st := by cases p <;> rfl
@[simp] theorem issueFrom_curValid (p : Port) (rest : List Byte) : (issueFrom p rest s).curValid = s.curValid := by cases p <;> rfl
@[simp] theorem issueFrom_curSlot (p : Port) (rest : List Byte) : (issueFrom p rest s).curSlot = s.curSlot := by cases p <;> rfl
@[simp] theorem issueFrom_curDest (p : Port) (rest : List Byte) : (issueFrom p rest s).curDest = s.curDest := by cases p <;> rfl
@[simp] theorem issueFrom_owner (p : Port) (rest : List Byte) : (issueFrom p rest s).owner = s.owner := by cases p <;> rfl
@[simp] theorem issueFrom_waitMs (p : Port) (rest : List Byte) : (issueFrom p rest s).waitMs = s.waitMs := by cases p <;> rfl
@[simp] theorem issueFrom_elapsed (p : Port) (rest : List Byte) : (issueFrom p rest s).elapsed = s.elapsed := by cases p <;> rfl
@[simp] theorem issueFrom_timerRun (p : Port) (rest : List Byte) : (issueFrom p rest s).timerRun = s.timerRun := by cases p <;> rfl
@[simp] theorem issueFrom_txXResult (p : Port) (rest : List Byte) : (issueFrom p rest s).txXResult = s.txXResult := by cases p <;> rfl
@[simp] theorem issueFrom_replySink (p : Port) (rest : List Byte) : (issueFrom p rest s).replySink = s.replySink := by cases p <;> rfl
@[simp] theorem issueFrom_inboundSink (p : Port) (rest : List Byte) : (issueFrom p rest s).inboundSink = s.inboundSink := by cases p <;> rfl
@[simp] theorem issueFrom_regConflict (p : Port) (rest : List Byte) : (issueFrom p rest s).regConflict = s.regConflict := by cases p <;> rfl
@[simp] theorem issueFrom_slots (p : Port) (rest : List Byte) : (issueFrom p rest s).slots = s.slots := by cases p <;> rfl
@[simp] theorem issueFrom_reg (p : Port) (rest : List Byte) : (issueFrom p rest s).reg = s.reg := by cases p <;> rfl
@[simp] theorem issueFrom_txx (p : Port) (rest : List Byte) : (issueFrom p rest s).txx = s.txx := by cases p <;> rfl
@[simp] theorem issueFrom_txa (p : Port) (rest : List Byte) : (issueFrom p rest s).txa = s.txa := by cases p <;> rfl
@[simp] theorem issueFrom_ports (p : Port) (rest : List Byte) : (issueFrom p rest s).ports = s.ports := by cases p <;> rfl
@[simp] theorem issueFrom_cscr (p : Port) (rest : List Byte) : (issueFrom p rest s).cscr = s.cscr := by cases p <;> rfl
@[simp] theorem issueFrom_issuer (p : Port) (rest : List Byte) : (issueFrom p rest s).issuer = p := by cases p <;> rfl
@[simp] theorem issueFrom_rxInit (p : Port) (rest : List Byte) : (issueFrom p rest s).rxInit = s.rxInit := by cases p <;> rfl
@[simp] theorem issueFrom_freeCount (p : Port) (rest : List Byte) : (issueFrom p rest s).freeCount = s.freeCount := by cases p <;> rfl
@[simp] theorem issueFrom_env (p : Port) (rest : List Byte) : (issueFrom p rest s).env = (setPortBytes p rest s).env := by cases p <;> rfl
@[simp] theorem issueFrom_outputs (p : Port) (rest : List Byte) : (issueFrom p rest s).outputs = s.outputs := by cases p <;> rfl

/-! ## deliverFrom -/

@[simp] theorem deliverFrom_config (u : BusUnit) (rest : List BusUnit) : (deliverFrom u rest s).config = s.config := rfl
@[simp] theorem deliverFrom_st (u : BusUnit) (rest : List BusUnit) : (deliverFrom u rest s).st = s.st := rfl
@[simp] theorem deliverFrom_curValid (u : BusUnit) (rest : List BusUnit) : (deliverFrom u rest s).curValid = s.curValid := rfl
@[simp] theorem deliverFrom_curSlot (u : BusUnit) (rest : List BusUnit) : (deliverFrom u rest s).curSlot = s.curSlot := rfl
@[simp] theorem deliverFrom_curDest (u : BusUnit) (rest : List BusUnit) : (deliverFrom u rest s).curDest = s.curDest := rfl
@[simp] theorem deliverFrom_owner (u : BusUnit) (rest : List BusUnit) : (deliverFrom u rest s).owner = s.owner := rfl
@[simp] theorem deliverFrom_waitMs (u : BusUnit) (rest : List BusUnit) : (deliverFrom u rest s).waitMs = s.waitMs := rfl
@[simp] theorem deliverFrom_elapsed (u : BusUnit) (rest : List BusUnit) : (deliverFrom u rest s).elapsed = s.elapsed := rfl
@[simp] theorem deliverFrom_timerRun (u : BusUnit) (rest : List BusUnit) : (deliverFrom u rest s).timerRun = s.timerRun := rfl
@[simp] theorem deliverFrom_txXResult (u : BusUnit) (rest : List BusUnit) : (deliverFrom u rest s).txXResult = s.txXResult := rfl
@[simp] theorem deliverFrom_replySink (u : BusUnit) (rest : List BusUnit) : (deliverFrom u rest s).replySink = s.replySink := rfl
@[simp] theorem deliverFrom_inboundSink (u : BusUnit) (rest : List BusUnit) : (deliverFrom u rest s).inboundSink = s.inboundSink := rfl
@[simp] theorem deliverFrom_regConflict (u : BusUnit) (rest : List BusUnit) : (deliverFrom u rest s).regConflict = s.regConflict := rfl
@[simp] theorem deliverFrom_slots (u : BusUnit) (rest : List BusUnit) : (deliverFrom u rest s).slots = s.slots := rfl
@[simp] theorem deliverFrom_reg (u : BusUnit) (rest : List BusUnit) : (deliverFrom u rest s).reg = s.reg := rfl
@[simp] theorem deliverFrom_txx (u : BusUnit) (rest : List BusUnit) : (deliverFrom u rest s).txx = s.txx := rfl
@[simp] theorem deliverFrom_txa (u : BusUnit) (rest : List BusUnit) : (deliverFrom u rest s).txa = s.txa := rfl
@[simp] theorem deliverFrom_ports (u : BusUnit) (rest : List BusUnit) : (deliverFrom u rest s).ports = s.ports := rfl
@[simp] theorem deliverFrom_cscr (u : BusUnit) (rest : List BusUnit) : (deliverFrom u rest s).cscr = s.cscr := rfl
@[simp] theorem deliverFrom_issuer (u : BusUnit) (rest : List BusUnit) : (deliverFrom u rest s).issuer = .channel := rfl
@[simp] theorem deliverFrom_rxInit (u : BusUnit) (rest : List BusUnit) : (deliverFrom u rest s).rxInit = u.init := rfl
@[simp] theorem deliverFrom_freeCount (u : BusUnit) (rest : List BusUnit) : (deliverFrom u rest s).freeCount = s.freeCount := rfl
@[simp] theorem deliverFrom_env (u : BusUnit) (rest : List BusUnit) : (deliverFrom u rest s).env = { s.env with inbound := rest } := rfl
@[simp] theorem deliverFrom_outputs (u : BusUnit) (rest : List BusUnit) : (deliverFrom u rest s).outputs = s.outputs := rfl

end Sys2Proof.Machine
end

