-- ==== Sys2Proof/Laws/Ops.lean ====
section
/-! SUPPORT. What the shared operations of Machine/Ops.lean answer, and the small lemmas by which they are read. -/

namespace Sys2Proof.Machine

/-! ## Going on or stopping -/

@[simp] theorem orFault_ok {α : Type} (a : α) (k : α → Step) : orFault (.ok a) k = k a := rfl

@[simp] theorem orFault_error {α : Type} (f : Fault) (k : α → Step) : orFault (.error f) k = .fault f := rfl

/-- A step that reads and goes on answers next exactly when the read succeeds and what follows does. -/
theorem orFault_eq_next {α : Type} {x : Except Fault α} {k : α → Step} {t : State} :
    orFault x k = .next t ↔ ∃ a, x = .ok a ∧ k a = .next t := by
  cases x <;> simp

/-- A caller-port command is run, or answered with ERROR_ILLEGAL_COMMAND, or ignored off a caller port (R165, R391). -/
theorem onCallerPort_eq_next {legal : Bool} {s t : State} {k : Nat → Step} (h : onCallerPort legal s k = .next t) :
    (∃ c, s.issuer = .caller c ∧ legal = true ∧ k c = .next t) ∨
    (∃ c, s.issuer = .caller c ∧ legal = false ∧ t = raise (.caller c) .illegalCommand s) ∨
    ((s.issuer = .channel ∨ s.issuer = .timer) ∧ t = s) := by
  unfold onCallerPort refuseCommand at h
  split at h
  · rename_i c hc
    split at h
    · exact .inl ⟨c, hc, by assumption, h⟩
    · rename_i hl
      refine .inr (.inl ⟨c, hc, by simpa using hl, ?_⟩)
      cases h
      rfl
  · rename_i hc; simp at h; exact .inr (.inr ⟨.inl hc, h.symm⟩)
  · rename_i hc; simp at h; exact .inr (.inr ⟨.inr hc, h.symm⟩)

/-- A caller-port command faults only in its own effect. -/
theorem onCallerPort_eq_fault {legal : Bool} {s : State} {k : Nat → Step} {f : Fault}
    (h : onCallerPort legal s k = .fault f) : ∃ c, s.issuer = .caller c ∧ legal = true ∧ k c = .fault f := by
  unfold onCallerPort at h
  split at h <;> try cases h
  rename_i c hc
  split at h
  · exact ⟨c, hc, by assumption, h⟩
  · cases h

theorem onCallerPort_caller {legal : Bool} {s : State} {c : Nat} (hc : s.issuer = .caller c) (k : Nat → Step) :
    onCallerPort legal s k = if legal then k c else .next (raise (.caller c) .illegalCommand s) := by
  simp [onCallerPort, hc]

/-! ## Guarded reads -/

theorem readSlot_eq_ok {k : BitVec 4} {s : State} {x : Slot} : readSlot k s = .ok x ↔ s.slots[k.toNat]? = some x := by
  unfold readSlot
  split <;> simp_all

theorem readReqVal_eq_ok {x : Slot} {v : Value} : readReqVal x = .ok v ↔ x.life ≠ .released ∧ v = x.reqVal := by
  unfold readReqVal
  by_cases h : x.life = .released <;> simp [h, eq_comm (a := v)]

theorem readRplVal_eq_ok {x : Slot} {v : Value} : readRplVal x = .ok v ↔ x.rplValid = true ∧ v = x.rplVal := by
  unfold readRplVal
  by_cases h : x.rplValid = true <;> simp [h, eq_comm (a := v)]

theorem readCurSlot_eq_ok {s : State} {k : BitVec 4} : readCurSlot s = .ok k ↔ s.st ≠ .idle ∧ k = s.curSlot := by
  unfold readCurSlot
  by_cases h : s.st = .idle <;> simp [h, eq_comm (a := k)]

theorem readCurDest_eq_ok {s : State} {d : LogicalAddr} : readCurDest s = .ok d ↔ s.st ≠ .idle ∧ d = s.curDest := by
  unfold readCurDest
  by_cases h : s.st = .idle <;> simp [h, eq_comm (a := d)]

theorem readOwner_eq_ok {s : State} {c : Nat} : readOwner s = .ok c ↔ s.st ≠ .idle ∧ c = s.owner := by
  unfold readOwner
  by_cases h : s.st = .idle <;> simp [h, eq_comm (a := c)]

theorem readCscrFam_eq_ok {s : State} {f : Family} : readCscrFam s = .ok f ↔ s.cscr.valid = true ∧ f = s.cscr.fam := by
  unfold readCscrFam
  by_cases h : s.cscr.valid = true <;> simp [h, eq_comm (a := f)]

theorem readCscrVal_eq_ok {s : State} {v : Value} : readCscrVal s = .ok v ↔ s.cscr.valid = true ∧ v = s.cscr.val := by
  unfold readCscrVal
  by_cases h : s.cscr.valid = true <;> simp [h, eq_comm (a := v)]

theorem readRegVal_eq_ok {e : RegEntry} {v : Value} :
    readRegVal e = .ok v ↔ e.valid = true ∧ e.respond = true ∧ v = e.val := by
  unfold readRegVal
  cases e.valid <;> cases e.respond <;> simp [eq_comm (a := v)]

theorem readLatch_eq_ok {q : CallerPort} {l : Latch} : readLatch q = .ok l ↔ q.phase = .admitWait ∧ l = q.latch := by
  unfold readLatch
  by_cases h : q.phase = .admitWait <;> simp [h, eq_comm (a := l)]

/-- RETURN is enabled for the owner of a transaction that is over and whose transmit result is known (43_adapter.md R333). -/
theorem returnEnabled_eq_true {c : Nat} {s : State} :
    returnEnabled c s = .ok true ↔ s.st.terminal = true ∧ s.txx = none ∧ s.owner = c := by
  unfold returnEnabled readOwner
  cases s.st <;> cases s.txx <;> simp [AdapterState.terminal, Except.map]

/-- Asking whether RETURN is enabled never faults: OWNER is read only in a terminal state (10_state.md R35). -/
theorem returnEnabled_ok (c : Nat) (s : State) : ∃ e, returnEnabled c s = .ok e := by
  unfold returnEnabled readOwner
  cases s.st <;> cases s.txx <;> simp [AdapterState.terminal, Except.map]

/-! ## The registry -/

theorem lookupReg_eq_some {o : Byte} {s : State} {e : RegEntry} :
    lookupReg o s = some e ↔ (readReg o s).valid = true ∧ e = readReg o s := by
  unfold lookupReg
  by_cases h : (readReg o s).valid = true <;> simp [h, eq_comm (a := e)]

/-- A write to one registry entry is read back there and leaves every other entry alone. -/
theorem readReg_writeReg (o o' : Byte) (e : RegEntry) (s : State) :
    readReg o' (writeReg o e s) = if o' = o then e else readReg o' s := by
  unfold readReg writeReg
  by_cases h : o' = o
  · subst h; simp
  · have : o.toNat ≠ o'.toNat := fun hh => h (BitVec.eq_of_toNat_eq hh.symm)
    simp [h, this]

/-! ## Slots and ports -/

/-- A write to one slot is read back there and leaves every other slot alone. -/
theorem slots_writeSlot (k : BitVec 4) (x : Slot) (s : State) (j : Nat) :
    (writeSlot k x s).slots[j]? = if j = k.toNat ∧ j < s.slots.length then some x else s.slots[j]? := by
  simp only [writeSlot_slots, List.getElem?_set]
  by_cases h : k.toNat = j
  · subst h
    by_cases hl : k.toNat < s.slots.length <;> simp [hl]
  · have : ¬ j = k.toNat := fun e => h e.symm
    simp [h, this]

/-- Setting one port's phase changes that port's phase and nothing else of any port. -/
theorem ports_setPhase (c : Nat) (p : Phase) (s : State) (j : Nat) :
    (setPhase c p s).ports[j]? = (s.ports[j]?).map fun q => if j = c then { q with phase := p } else q := by
  simp only [setPhase_ports, List.getElem?_modify]
  by_cases h : c = j
  · simp [h]
  · have : ¬ j = c := fun e => h e.symm
    simp [h, this]

theorem ports_setAdmitWait (c : Nat) (l : Latch) (s : State) (j : Nat) :
    (setAdmitWait c l s).ports[j]? =
      (s.ports[j]?).map fun q => if j = c then { phase := .admitWait, latch := l } else q := by
  simp only [setAdmitWait_ports, List.getElem?_modify]
  by_cases h : c = j
  · simp [h]
  · have : ¬ j = c := fun e => h e.symm
    simp [h, this]

/-! ## The frame buffer -/

/-- Byte j of a spliced buffer. -/
theorem spliceBytes_getElem (buf : FrameBuf) (addr : Nat) (bs : List Byte) (j : Nat) (h : j < 15) :
    (spliceBytes buf addr bs)[j] =
      if addr ≤ j ∧ j < addr + bs.length then bs.getD (j - addr) 0 else buf.toList.getD j 0 := by
  simp [spliceBytes]

/-- An access stays inside the frame in use exactly below its LEN and below FRAME_MAX (20_memory.md R101, R104). -/
theorem inFrame_eq_ok {len addr n : Nat} : inFrame len addr n = .ok () ↔ addr + n ≤ 15 ∧ addr + n ≤ len := by
  unfold inFrame frameMax
  split
  · simp; omega
  · split
    · simp; omega
    · simp; omega

/-- MemRead succeeds exactly inside the frame in use (20_memory.md R104). -/
theorem memRead_eq_ok {buf : FrameBuf} {len addr n : Nat} {bs : List Byte} :
    memRead buf len addr n = .ok bs ↔ addr + n ≤ 15 ∧ addr + n ≤ len ∧ bs = (buf.toList.drop addr).take n := by
  unfold memRead
  cases h : inFrame len addr n with
  | error f =>
    have : ¬ (addr + n ≤ 15 ∧ addr + n ≤ len) := fun e => by simp [inFrame_eq_ok.2 e] at h
    simp only [reduceCtorEq, false_iff]
    tauto
  | ok u =>
    have := inFrame_eq_ok.1 h
    simp [this, eq_comm (a := bs)]

/-- MemWrite succeeds exactly inside the frame in use (20_memory.md R104). -/
theorem memWrite_eq_ok {buf buf' : FrameBuf} {len addr : Nat} {bs : List Byte} :
    memWrite buf len addr bs = .ok buf' ↔
      addr + bs.length ≤ 15 ∧ addr + bs.length ≤ len ∧ buf' = spliceBytes buf addr bs := by
  unfold memWrite
  cases h : inFrame len addr bs.length with
  | error f =>
    have : ¬ (addr + bs.length ≤ 15 ∧ addr + bs.length ≤ len) := fun e => by simp [inFrame_eq_ok.2 e] at h
    simp only [reduceCtorEq, false_iff]
    tauto
  | ok u =>
    have := inFrame_eq_ok.1 h
    simp [this, eq_comm (a := buf')]

/-- A codec's write succeeds exactly inside the parameter region (20_memory.md R104). -/
theorem paramWrite_eq_ok {buf buf' : FrameBuf} {len addr : Nat} {bs : List Byte} :
    paramWrite buf len addr bs = .ok buf' ↔
      1 ≤ addr ∧ addr + bs.length ≤ 15 ∧ addr + bs.length ≤ len ∧ buf' = spliceBytes buf addr bs := by
  unfold paramWrite
  by_cases h : addr = 0
  · simp [h]
  · simp [h, memWrite_eq_ok, Nat.one_le_iff_ne_zero]

/-- A unit's bytes are read inside its frame, so reading them never faults (30_encoding.md R142). -/
theorem unitFrame_eq (u : BusUnit) : unitFrame u = .ok (u.data.toList.take u.len.toNat) :=
  memRead_eq_ok.2 ⟨by omega, by omega, rfl⟩

/-- The request built from at most 14 parameter bytes: its fields, and its data byte by byte (10_state.md R48). -/
theorem buildTxReq_ok (ownLa d : LogicalAddr) (o : Byte) (b : List Byte) (hb : b.length ≤ 14) :
    ∃ r, buildTxReq ownLa d o b = .ok r ∧ r.init = ownLa ∧ r.foll = d ∧ r.len.toNat = 1 + b.length ∧
      ∀ j (h : j < 15), r.data[j] = if j < 1 + b.length then (o :: b).getD j 0 else 0 := by
  have h1 : paramWrite zeroBuf (1 + b.length) 1 b = .ok (spliceBytes zeroBuf 1 b) :=
    paramWrite_eq_ok.2 ⟨by omega, by omega, by omega, rfl⟩
  have h2 : memWrite (spliceBytes zeroBuf 1 b) (1 + b.length) 0 [o] = .ok (spliceBytes (spliceBytes zeroBuf 1 b) 0 [o]) :=
    memWrite_eq_ok.2 ⟨by simp, by simp, rfl⟩
  refine ⟨TxReq.mk ownLa d (BitVec.ofNat 4 (1 + b.length)) (spliceBytes (spliceBytes zeroBuf 1 b) 0 [o]),
    by simp only [buildTxReq, h1, h2], rfl, rfl, ?_, ?_⟩
  · simp only [BitVec.toNat_ofNat]; omega
  · intro j h
    simp only [spliceBytes_getElem]
    cases j with
    | zero => simp
    | succ j =>
      have e : (spliceBytes zeroBuf 1 b).toList.getD (j + 1) 0 = (spliceBytes zeroBuf 1 b)[j + 1] := by
        simp [List.getD_eq_getElem?_getD, h]
      have z : zeroBuf.toList.getD (j + 1) 0 = 0 := by
        have hj : j < 14 := by omega
        clear e h
        interval_cases j <;> rfl
      simp only [List.length_singleton, e, spliceBytes_getElem, z]
      by_cases hj : j < b.length
      · have : j + 1 < 1 + b.length := by omega
        simp [this]
      · have : ¬ j + 1 < 1 + b.length := by omega
        simp [this]

end Sys2Proof.Machine
end

