-- ==== Sys2Proof/Laws/Effects.lean ====
section
/-! SUPPORT. What an instruction and a step can do, said once: if exec or step answers next, the new state is one of the
forms listed here, guards included. Whole-machine properties are case splits over these forms. -/

namespace Sys2Proof.Machine

/-- What ARM leaves (spec/43_adapter.md R322). -/
inductive ArmEffect (c : Nat) (d : LogicalAddr) (k : BitVec 4) (w : Word32) (s : State) : State → Prop where
  | wrongLife (x : Slot) (hk : s.slots[k.toNat]? = some x) (hl : x.life ≠ .created) :
      ArmEffect c d k w s (raise (.caller c) .illegalState (setPhase c .ready s))
  | tooLarge (x : Slot) (hk : s.slots[k.toNat]? = some x) (hl : x.life = .created)
      (hp : prepare s.config.ownLa d x = .ok none) :
      ArmEffect c d k w s (raise (.caller c) .payloadTooLarge (setPhase c .ready s))
  | arms (x : Slot) (r : TxReq) (hk : s.slots[k.toNat]? = some x) (hl : x.life = .created)
      (hp : prepare s.config.ownLa d x = .ok (some r)) : ArmEffect c d k w s (armed c d k w x r s)

/-- What TX_DONE X leaves (43_adapter.md R323). -/
inductive TxDoneXEffect (s : State) : Bool → State → Prop where
  | ignored (ok : Bool) (hx : s.txx = none) : TxDoneXEffect s ok s
  | late (ok : Bool) (hx : s.txx ≠ none) (hst : s.st ≠ .pending) :
      TxDoneXEffect s ok { s with txx := none, txXResult := if ok then .ok else .fail }
  | fails (hx : s.txx ≠ none) (hst : s.st = .pending) :
      TxDoneXEffect s false (endTransaction .failed { s with txx := none, txXResult := .fail })
  | waits (hx : s.txx ≠ none) (hst : s.st = .pending) (x : Slot) (hk : s.slots[s.curSlot.toNat]? = some x)
      (ha : x.ans = true) : TxDoneXEffect s true { s with txx := none, txXResult := .ok, timerRun := true }
  | resolves (hx : s.txx ≠ none) (hst : s.st = .pending) (x : Slot) (hk : s.slots[s.curSlot.toNat]? = some x)
      (ha : x.ans = false) :
      TxDoneXEffect s true
        (writeSlot s.curSlot { x with life := .resolved } (endTransaction .resolved { s with txx := none, txXResult := .ok }))

/-- What RECEIVED leaves (43_adapter.md R326): a footer is answered, a reply resolves the transaction, any other frame goes to
the inbound path. -/
inductive ReceiveEffect (p : Port) (i : LogicalAddr) (s : State) : List Byte → State → Prop where
  | footer : ReceiveEffect p i s [] (respond p { result := .none, info := receivedInfo 0, tail := [] } s)
  | reply (o : Byte) (ps : List Byte) (x x' : Slot) (hst : s.st = .pending) (hk : s.slots[s.curSlot.toNat]? = some x)
      (ha : x.ans = true) (hi : i = s.curDest ∨ i = broadcast) (hc : complete s.config.catalog x o ps = .ok (.ok x')) :
      ReceiveEffect p i s (o :: ps)
        (respond p { result := .none, info := receivedInfo (o :: ps).length, tail := [] } (resolveReply s.curSlot x' s))
  | other (o : Byte) (ps : List Byte) (t : State) (h : inbound i o s = .ok t) :
      ReceiveEffect p i s (o :: ps)
        (respond p { result := .none, info := receivedInfo (o :: ps).length, tail := [] } t)

/-- What an instruction leaves when exec answers next. -/
inductive Effect : Instr → State → State → Prop where
  | unchanged (i : Instr) (s : State) : Effect i s s
  | answers (i : Instr) (s : State) (p : Port) (r : Response) (he : r.result ≠ .none → r.info = 0 ∧ r.tail = []) :
      Effect i s (respond p r s)
  | creates (h : Header) (v : Operand) (s : State) (c : Nat) (x : Slot) (val : Value) (hi : s.issuer = .caller c)
      (hn : h.slot.toNat < s.config.nx) (hk : s.slots[h.slot.toNat]? = some x) (hx : x.life.inTransaction = false)
      (hv : operandValue s.config.osdNameMax (s.config.family h.opc) v = some val) :
      Effect (.exCreate h v) s (respondOk (.caller c) (writeSlot h.slot (createdSlot h val x) s))
  | conflicts (h : Header) (v : Operand) (s : State) (c : Nat) (hv : (readReg h.opc s).valid = true) :
      Effect (.announce h v) s (raise (.caller c) .alreadyRegistered { s with regConflict := true })
  | announces (h : Header) (v : Operand) (s : State) (c : Nat) (val : Value) (hr : h.flg.getLsbD 0 = true)
      (ho : operandValue s.config.osdNameMax (s.config.family h.opc2) v = some val) (hv : (readReg h.opc s).valid = false) :
      Effect (.announce h v) s (respondOk (.caller c) (writeReg h.opc (answeringEntry h val) s))
  | announcesSilent (h : Header) (v : Operand) (s : State) (c : Nat) (hr : h.flg.getLsbD 0 = false)
      (hb : h.flg.getLsbD 1 = false) (hv : (readReg h.opc s).valid = false) :
      Effect (.announce h v) s
        (respondOk (.caller c) (writeReg h.opc (silentEntry h (freshValue s)) (useFree s)))
  | revokes (h : Header) (s : State) (c : Nat) (hv : (readReg h.opc s).valid = true) :
      Effect (.revoke h) s (respondOk (.caller c) (writeReg h.opc (revokedEntry (freshValue s)) (useFree s)))
  | decodes (h : Header) (b : List Byte) (s : State) (c : Nat) (val : Value) (r : Response)
      (hr : r.result = .none) (hv : deserialize (s.config.family h.opc) b = .ok (some val)) :
      Effect (.codecDes h b) s
        (respond (.caller c) r { s with cscr := { valid := true, fam := s.config.family h.opc, val := val } })
  | waits (h : Header) (w : Word32) (s : State) (c : Nat) (hi : s.issuer = .caller c) (hn : h.slot.toNat < s.config.nx)
      (hst : s.st ≠ .idle) :
      Effect (.exchange h w) s (setAdmitWait c { dest := h.la, slot := h.slot, wait := w } s)
  | arms (h : Header) (w : Word32) (s t : State) (c : Nat) (hi : s.issuer = .caller c) (hn : h.slot.toNat < s.config.nx)
      (hst : s.st = .idle) (ha : ArmEffect c h.la h.slot w s t) : Effect (.exchange h w) s t
  | txDoneX (r : TxDoneRest) (s t : State) (ok : Bool) (hi : s.issuer = .channel) (h : TxDoneXEffect s ok t) :
      Effect (if ok then .txDoneXOk r else .txDoneXFail r) s t
  | txDoneA (r : TxDoneRest) (s : State) (ok : Bool) (hi : s.issuer = .channel) :
      Effect (if ok then .txDoneAOk r else .txDoneAFail r) s { s with txa := s.txa.tail }
  | receives (i : Instr) (s t : State) (la : LogicalAddr) (b : List Byte)
      (hi : (∃ hd, i = .received hd b ∧ s.issuer = .channel ∧ la = hd.la) ∨
        (i.isCommand = false ∧ encode i = b ∧ la = s.rxInit))
      (h : ReceiveEffect .channel la s b t) : Effect i s t
  | ticks (h : Header) (s : State) : Effect (.tick h) s (tick s)

/-! ## Inversion of the shared operations -/

theorem refuseCommand_eq (b : Bool) (s : State) :
    refuseCommand b s = s ∨ ∃ p, refuseCommand b s = respond p { result := .illegalCommand, info := 0, tail := [] } s := by
  unfold refuseCommand
  split
  · exact .inr ⟨_, rfl⟩
  · split
    · exact .inr ⟨_, rfl⟩
    · exact .inl rfl
  · split
    · exact .inr ⟨_, rfl⟩
    · exact .inl rfl

theorem refuseCommand_effect (i : Instr) (b : Bool) (s : State) : Effect i s (refuseCommand b s) := by
  obtain h | ⟨p, h⟩ := refuseCommand_eq b s <;> rw [h]
  · exact .unchanged i s
  · exact .answers i s p _ fun _ => ⟨rfl, rfl⟩

theorem arm_effect {c : Nat} {d : LogicalAddr} {k : BitVec 4} {w : Word32} {s t : State} (h : arm c d k w s = .next t) :
    ArmEffect c d k w s t := by
  unfold arm at h
  obtain ⟨x, hx, h⟩ := orFault_eq_next.1 h
  have hk := readSlot_eq_ok.1 hx
  split at h
  · cases h; exact .wrongLife x hk ‹_›
  · have hl : x.life = .created := by simpa using ‹¬ x.life ≠ .created›
    obtain ⟨q, hq, h⟩ := orFault_eq_next.1 h
    cases q with
    | none => cases h; exact .tooLarge x hk hl hq
    | some r => cases h; exact .arms x r hk hl hq

theorem txDoneX_effect {ok : Bool} {s t : State} (h : txDoneX ok s = .next t) : TxDoneXEffect s ok t := by
  unfold txDoneX at h
  split at h
  · cases h; exact .ignored ok ‹_›
  · simp only [] at h
    split at h
    · cases h; exact .late ok ‹_› ‹_›
    · have hst : s.st = .pending := by simpa using ‹¬ s.st ≠ .pending›
      cases ok with
      | false => cases h; exact .fails ‹_› hst
      | true =>
        simp only [Bool.true_eq_false, if_false, if_true] at h
        obtain ⟨k, hk, h⟩ := orFault_eq_next.1 h
        obtain ⟨-, rfl⟩ := readCurSlot_eq_ok.1 hk
        obtain ⟨x, hx, h⟩ := orFault_eq_next.1 h
        have hk := readSlot_eq_ok.1 hx
        cases ha : x.ans with
        | true => simp only [answerExpected, ha, if_true] at h; cases h; exact .waits ‹_› hst x hk ha
        | false =>
          rw [if_neg (by simp [answerExpected, ha])] at h
          cases h
          exact .resolves ‹_› hst x hk ha

/-- Correlates holds exactly for a pending transaction that expects an answer, from its destination or from 15 (43_adapter.md
R327). -/
theorem correlates_eq_true {i : LogicalAddr} {s : State} (h : correlates i s = .ok true) :
    s.st = .pending ∧ (i = s.curDest ∨ i = broadcast) ∧
      ∃ x, s.slots[s.curSlot.toNat]? = some x ∧ x.ans = true := by
  unfold correlates currentSlot at h
  split at h
  · cases h
  · have hst : s.st = .pending := by simpa using ‹¬ s.st ≠ .pending›
    have hc : readCurSlot s = .ok s.curSlot := readCurSlot_eq_ok.2 ⟨by simp [hst], rfl⟩
    have hd : readCurDest s = .ok s.curDest := readCurDest_eq_ok.2 ⟨by simp [hst], rfl⟩
    simp only [hc, hd] at h
    cases hr : readSlot s.curSlot s with
    | error f => simp [hr] at h
    | ok x =>
      simp only [hr, Except.ok.injEq, Bool.and_eq_true, Bool.or_eq_true, beq_iff_eq, answerExpected] at h
      exact ⟨hst, h.2, x, readSlot_eq_ok.1 hr, h.1⟩

theorem inboundAndRespond_effect {p : Port} {i : LogicalAddr} {o : Byte} {ps : List Byte} {s t : State}
    (h : inboundAndRespond p i o (o :: ps).length s = .next t) : ReceiveEffect p i s (o :: ps) t := by
  obtain ⟨t', ht, h⟩ := orFault_eq_next.1 h
  cases h
  exact .other o ps t' ht

theorem receive_effect {p : Port} {i : LogicalAddr} {b : List Byte} {s t : State} (h : receive p i b s = .next t) :
    ReceiveEffect p i s b t := by
  cases b with
  | nil => cases h; exact .footer
  | cons o ps =>
    obtain ⟨cor, hc, h⟩ := orFault_eq_next.1 h
    cases cor with
    | false => exact inboundAndRespond_effect (by simpa only [Bool.false_eq_true, if_false] using h)
    | true =>
      obtain ⟨hst, hi, x, hk, ha⟩ := correlates_eq_true hc
      simp only [if_true] at h
      obtain ⟨k, hk', h⟩ := orFault_eq_next.1 h
      obtain ⟨-, rfl⟩ := readCurSlot_eq_ok.1 hk'
      obtain ⟨y, hy, h⟩ := orFault_eq_next.1 h
      have hy := readSlot_eq_ok.1 hy
      obtain rfl : y = x := by simpa [hk, eq_comm] using hy
      obtain ⟨res, hcm, h⟩ := orFault_eq_next.1 h
      cases res with
      | error e => exact inboundAndRespond_effect h
      | ok x' => cases h; exact .reply o ps y x' hst hk ha hi hcm

/-- The inbound path leaves the state as it was or pushes one request at the tail of TXA (43_adapter.md R329). -/
theorem inbound_eq_ok {i : LogicalAddr} {o : Byte} {s t : State} (h : inbound i o s = .ok t) :
    t = s ∨ ∃ r, s.txa.length ≠ s.config.txaDepth ∧ t = { s with txa := s.txa ++ [r] } := by
  unfold inbound at h
  split at h
  · cases h; exact .inl rfl
  · split at h
    · cases h; exact .inl rfl
    · split at h
      · cases h
      · split at h
        · cases h; exact .inl rfl
        · unfold pushReply at h
          split at h
          · cases h; exact .inl rfl
          · split at h
            · cases h
            · cases h; exact .inr ⟨_, ‹_›, rfl⟩

/-! ## Inversion of the instructions -/

theorem onCallerPort_effect {i : Instr} {legal : Bool} {s t : State} {k : Nat → Step} (h : onCallerPort legal s k = .next t)
    (hk : ∀ c, s.issuer = .caller c → legal = true → k c = .next t → Effect i s t) : Effect i s t := by
  obtain ⟨c, hc, hl, h⟩ | ⟨c, -, -, rfl⟩ | ⟨-, rfl⟩ := onCallerPort_eq_next h
  · exact hk c hc hl h
  · exact .answers i s _ _ fun _ => ⟨rfl, rfl⟩
  · exact .unchanged i t

theorem onChannelTxDone_effect {i : Instr} {r : TxDoneRest} {s t : State} {k : Step} (h : onChannelTxDone r s k = .next t)
    (hk : s.issuer = .channel → k = .next t → Effect i s t) : Effect i s t := by
  unfold onChannelTxDone at h
  split at h
  · split at h
    · exact hk ‹_› h
    · cases h; exact refuseCommand_effect i false s
  · cases h; exact refuseCommand_effect i false s
  · cases h; exact refuseCommand_effect i false s

theorem respondReply_effect {p : Port} {e : Result} {info : BitVec 24} {x : Slot} {s t : State}
    (h : respondReply p e info x s = .next t) : ∃ r, r.result = e ∧ t = respond p r s := by
  unfold respondReply at h
  split at h
  · obtain ⟨v, -, h⟩ := orFault_eq_next.1 h
    cases h; exact ⟨_, rfl, rfl⟩
  · cases h; exact ⟨_, rfl, rfl⟩

/-- Whatever exec leaves is one of the listed forms. -/
theorem exec_effect {i : Instr} {s t : State} (h : exec i s = .next t) : Effect i s t := by
  cases i with
  | exCreate hd v =>
    refine onCallerPort_effect h fun c hc _ h => ?_
    split at h
    · cases h; exact .answers _ s _ _ (by simp)
    · obtain ⟨x, hx, h⟩ := orFault_eq_next.1 h
      split at h
      · cases h; exact .answers _ s _ _ (by simp)
      · split at h
        · cases h; exact .answers _ s _ _ (by simp)
        · cases h
          exact .creates hd v s c x _ hc (by omega) (readSlot_eq_ok.1 hx) (by simpa using ‹¬ x.life.inTransaction = true›) ‹_›
  | exchange hd w =>
    refine onCallerPort_effect h fun c hc _ h => ?_
    split at h
    · cases h; exact .answers _ s _ _ (by simp)
    · split at h
      · exact .arms hd w s t c hc (by omega) ‹_› (arm_effect h)
      · split at h
        · cases h; exact .answers _ s _ _ (by simp)
        · cases h; exact .waits hd w s c hc (by omega) ‹_›
  | exRead hd =>
    refine onCallerPort_effect h fun c _ _ h => ?_
    split at h
    · cases h; exact .answers _ s _ _ (by simp)
    · obtain ⟨x, -, h⟩ := orFault_eq_next.1 h
      obtain ⟨r, hr, rfl⟩ := respondReply_effect h
      exact .answers _ s _ r fun hne => absurd hr hne
  | announce hd v =>
    refine onCallerPort_effect h fun c _ hl h => ?_
    split at h
    · split at h
      · cases h; exact .answers _ s _ _ (by simp)
      · split at h
        · cases h; exact .conflicts hd v s c ‹_›
        · cases h
          exact .announces hd v s c _ ‹_› ‹_› (by simpa using ‹¬ (readReg hd.opc s).valid = true›)
    · split at h
      · cases h; exact .conflicts hd v s c ‹_›
      · cases h
        exact .announcesSilent hd v s c (by simpa [flgRespond] using ‹¬ flgRespond hd = true›)
          (by simp_all [legalAnnounce, flgBcast]) (by simpa using ‹¬ (readReg hd.opc s).valid = true›)
  | revoke hd =>
    refine onCallerPort_effect h fun c _ _ h => ?_
    split at h
    · cases h; exact .revokes hd s c ‹_›
    · cases h; exact .answers _ s _ _ (by simp)
  | lookup hd =>
    refine onCallerPort_effect h fun c _ _ h => ?_
    split at h
    · cases h; exact .answers _ s _ _ (by simp)
    · split at h
      · obtain ⟨v, -, h⟩ := orFault_eq_next.1 h
        cases h; exact .answers _ s _ _ (by simp)
      · cases h; exact .answers _ s _ _ (by simp)
  | statusRead hd =>
    refine onCallerPort_effect h fun c _ _ h => ?_
    cases h; exact .answers _ s _ _ (by simp)
  | codecSer hd v =>
    refine onCallerPort_effect h fun c _ _ h => ?_
    split at h
    · cases h; exact .answers _ s _ _ (by simp)
    · split at h
      · cases h; exact .answers _ s _ _ (by simp)
      · cases h; exact .answers _ s _ _ (by simp)
  | codecDes hd b =>
    refine onCallerPort_effect h fun c _ _ h => ?_
    obtain ⟨res, hd', h⟩ := orFault_eq_next.1 h
    cases res with
    | none => cases h; exact .answers _ s _ _ (by simp)
    | some val => cases h; exact .decodes hd b s c val _ rfl hd'
  | received hd b =>
    change execReceived hd b s = .next t at h
    unfold execReceived at h
    split at h
    · split at h
      · exact .receives _ s t hd.la b (.inl ⟨hd, rfl, ‹_›, rfl⟩) (receive_effect h)
      · cases h; exact refuseCommand_effect _ true s
    · cases h; exact refuseCommand_effect _ true s
    · cases h; exact refuseCommand_effect _ true s
  | txDoneXFail r => exact onChannelTxDone_effect h fun hi h => .txDoneX r s t false hi (txDoneX_effect h)
  | txDoneXOk r => exact onChannelTxDone_effect h fun hi h => .txDoneX r s t true hi (txDoneX_effect h)
  | txDoneAFail r => exact onChannelTxDone_effect h fun hi h => by cases h; exact .txDoneA r s false hi
  | txDoneAOk r => exact onChannelTxDone_effect h fun hi h => by cases h; exact .txDoneA r s true hi
  | tick hd =>
    change execTick hd s = .next t at h
    unfold execTick at h
    split at h
    · split at h
      · cases h; exact .ticks hd s
      · cases h; exact refuseCommand_effect _ false s
    · cases h; exact refuseCommand_effect _ false s
    · cases h; exact refuseCommand_effect _ false s
  | reserved0 hd => cases h; exact refuseCommand_effect _ false s
  | reservedD hd => cases h; exact refuseCommand_effect _ false s
  | reservedE hd => cases h; exact refuseCommand_effect _ false s
  | reservedF hd => cases h; exact refuseCommand_effect _ false s
  | getCecVersion p => exact .receives _ s t s.rxInit (0x9F :: p) (.inr ⟨rfl, rfl, rfl⟩) (receive_effect h)
  | cecVersion p => exact .receives _ s t s.rxInit (0x9E :: p) (.inr ⟨rfl, rfl, rfl⟩) (receive_effect h)
  | givePhysicalAddr p => exact .receives _ s t s.rxInit (0x83 :: p) (.inr ⟨rfl, rfl, rfl⟩) (receive_effect h)
  | reportPhysicalAddr p => exact .receives _ s t s.rxInit (0x84 :: p) (.inr ⟨rfl, rfl, rfl⟩) (receive_effect h)
  | standby p => exact .receives _ s t s.rxInit (0x36 :: p) (.inr ⟨rfl, rfl, rfl⟩) (receive_effect h)
  | giveOsdName p => exact .receives _ s t s.rxInit (0x46 :: p) (.inr ⟨rfl, rfl, rfl⟩) (receive_effect h)
  | setOsdName p => exact .receives _ s t s.rxInit (0x47 :: p) (.inr ⟨rfl, rfl, rfl⟩) (receive_effect h)
  | giveDeviceVendorId p => exact .receives _ s t s.rxInit (0x8C :: p) (.inr ⟨rfl, rfl, rfl⟩) (receive_effect h)
  | deviceVendorId p => exact .receives _ s t s.rxInit (0x87 :: p) (.inr ⟨rfl, rfl, rfl⟩) (receive_effect h)
  | getMenuLanguage p => exact .receives _ s t s.rxInit (0x91 :: p) (.inr ⟨rfl, rfl, rfl⟩) (receive_effect h)
  | setMenuLanguage p => exact .receives _ s t s.rxInit (0x32 :: p) (.inr ⟨rfl, rfl, rfl⟩) (receive_effect h)
  | giveDevicePowerStatus p => exact .receives _ s t s.rxInit (0x8F :: p) (.inr ⟨rfl, rfl, rfl⟩) (receive_effect h)
  | reportPowerStatus p => exact .receives _ s t s.rxInit (0x90 :: p) (.inr ⟨rfl, rfl, rfl⟩) (receive_effect h)
  | userControlPressed p => exact .receives _ s t s.rxInit (0x44 :: p) (.inr ⟨rfl, rfl, rfl⟩) (receive_effect h)
  | userControlReleased p => exact .receives _ s t s.rxInit (0x45 :: p) (.inr ⟨rfl, rfl, rfl⟩) (receive_effect h)
  | otherOpcode o p => exact .receives _ s t s.rxInit (o :: p) (.inr ⟨rfl, rfl, rfl⟩) (receive_effect h)

end Sys2Proof.Machine
end

