-- ==== Sys2Proof/Laws/Invariant.lean ====
section
/-! SUPPORT. Which operations keep the invariant of Safety.lean, operation by operation. -/

namespace Sys2Proof.Machine

/-! ## Updates the invariant does not look at -/

theorem respond_keeps_inv {p : Port} {r : Response} {s : State} (h : s.Inv) : (respond p r s).Inv :=
  ⟨h.config, h.slotCount, h.portCount, h.curValid, h.replySink, h.inboundSink, h.curSlot, h.owner, h.slots, h.transaction,
   h.txxPending, h.txResult, h.txx, h.txa, h.txaDepth, h.timerRun, h.elapsed, h.notStarted, h.reg, h.ports, h.cscr⟩

theorem raise_keeps_inv {p : Port} {e : Result} {s : State} (h : s.Inv) : (raise p e s).Inv := respond_keeps_inv h

theorem respondOk_keeps_inv {p : Port} {s : State} (h : s.Inv) : (respondOk p s).Inv := respond_keeps_inv h

theorem refuseCommand_keeps_inv {b : Bool} {s : State} (h : s.Inv) : (refuseCommand b s).Inv := by
  unfold refuseCommand
  split <;> first | exact raise_keeps_inv h | (split <;> first | exact raise_keeps_inv h | exact h)

/-- The model's own fields and REG_CONFLICT are not part of the invariant. -/
theorem own_fields_keep_inv {s : State} (h : s.Inv) (rc : Bool) (i : Port) (a : LogicalAddr) (n : Nat) (e : Env)
    (o : List Output) :
    ({ s with regConflict := rc, issuer := i, rxInit := a, freeCount := n, env := e, outputs := o } : State).Inv :=
  ⟨h.config, h.slotCount, h.portCount, h.curValid, h.replySink, h.inboundSink, h.curSlot, h.owner, h.slots, h.transaction,
   h.txxPending, h.txResult, h.txx, h.txa, h.txaDepth, h.timerRun, h.elapsed, h.notStarted, h.reg, h.ports, h.cscr⟩

theorem useFree_keeps_inv {s : State} (h : s.Inv) : (useFree s).Inv :=
  own_fields_keep_inv h s.regConflict s.issuer s.rxInit (s.freeCount + 1) s.env s.outputs

theorem issueFrom_keeps_inv {p : Port} {rest : List Byte} {s : State} (h : s.Inv) : (issueFrom p rest s).Inv := by
  cases p <;> exact own_fields_keep_inv h s.regConflict _ s.rxInit s.freeCount _ s.outputs

theorem takeTurn_keeps_inv {rest : List Move} {s : State} (h : s.Inv) : (takeTurn rest s).Inv :=
  own_fields_keep_inv h s.regConflict s.issuer s.rxInit s.freeCount _ s.outputs

theorem deliverFrom_keeps_inv {u : BusUnit} {rest : List BusUnit} {s : State} (h : s.Inv) : (deliverFrom u rest s).Inv :=
  own_fields_keep_inv h s.regConflict _ _ s.freeCount _ s.outputs

theorem setCscr_keeps_inv {s : State} (h : s.Inv) (x : Cscr) (hx : x.val.family = x.fam) :
    ({ s with cscr := x } : State).Inv :=
  ⟨h.config, h.slotCount, h.portCount, h.curValid, h.replySink, h.inboundSink, h.curSlot, h.owner, h.slots, h.transaction,
   h.txxPending, h.txResult, h.txx, h.txa, h.txaDepth, h.timerRun, h.elapsed, h.notStarted, h.reg, h.ports, fun _ => hx⟩

theorem pushTxa_keeps_inv {s : State} (h : s.Inv) {r : TxReq} (hr : TxReqSound s.config r)
    (hd : s.txa.length < s.config.txaDepth) : ({ s with txa := s.txa ++ [r] } : State).Inv := by
  refine ⟨h.config, h.slotCount, h.portCount, h.curValid, h.replySink, h.inboundSink, h.curSlot, h.owner, h.slots,
    h.transaction, h.txxPending, h.txResult, h.txx, ?_, ?_, h.timerRun, h.elapsed, h.notStarted, h.reg, h.ports, h.cscr⟩
  · intro r' hr'
    rcases List.mem_append.1 hr' with hm | hm
    · exact h.txa r' hm
    · rw [List.mem_singleton.1 hm]; exact hr
  · simp only [List.length_append, List.length_singleton]; omega

theorem popTxa_keeps_inv {s : State} (h : s.Inv) : ({ s with txa := s.txa.tail } : State).Inv := by
  refine ⟨h.config, h.slotCount, h.portCount, h.curValid, h.replySink, h.inboundSink, h.curSlot, h.owner, h.slots,
    h.transaction, h.txxPending, h.txResult, h.txx, ?_, ?_, h.timerRun, h.elapsed, h.notStarted, h.reg, h.ports, h.cscr⟩
  · exact fun r hr => h.txa r (List.mem_of_mem_tail hr)
  · have := h.txaDepth
    simp only [List.length_tail]; omega

/-! ## The registry -/

theorem writeReg_keeps_inv {s : State} (h : s.Inv) {o : Byte} {e : RegEntry} (he : EntrySound s.config e) :
    (writeReg o e s).Inv := by
  refine ⟨h.config, h.slotCount, h.portCount, h.curValid, h.replySink, h.inboundSink, h.curSlot, h.owner, h.slots,
    h.transaction, h.txxPending, h.txResult, h.txx, h.txa, h.txaDepth, h.timerRun, h.elapsed, h.notStarted, ?_, h.ports, h.cscr⟩
  intro o'
  rw [readReg_writeReg]
  split
  · exact he
  · exact h.reg o'

/-! ## Requests and slots -/

/-- A request built from the serialized value is sound (10_state.md R48). -/
theorem buildTxReq_sound {c : Config} {d : LogicalAddr} {o : Byte} {b : List Byte} (hb : b.length ≤ 14) :
    ∃ r, buildTxReq c.ownLa d o b = .ok r ∧ TxReqSound c r ∧ r.foll = d := by
  obtain ⟨r, hr, hi, hf, hl, hd⟩ := buildTxReq_ok c.ownLa d o b hb
  refine ⟨r, hr, ⟨hi, by omega, ?_⟩, hf⟩
  intro j hj hle
  rw [hd j hj, if_neg (by omega)]

/-- Prepare never faults on a slot that holds a request, and what it builds is a sound request to d (42_exchange.md R292). -/
theorem prepare_sound {c : Config} {d : LogicalAddr} {x : Slot} (hx : x.life ≠ .released) :
    ∃ q, prepare c.ownLa d x = .ok q ∧ ∀ r, q = some r → TxReqSound c r ∧ r.foll = d := by
  have hv : readReqVal x = .ok x.reqVal := readReqVal_eq_ok.2 ⟨hx, rfl⟩
  cases hs : serialize x.reqVal paramMax with
  | none => exact ⟨none, by simp [prepare, hv, hs], by simp⟩
  | some b =>
    obtain ⟨r, hr, hsnd, hf⟩ := buildTxReq_sound (c := c) (d := d) (o := x.reqOpc) (serialize_length hs)
    exact ⟨some r, by simp [prepare, hv, hs, hr], by rintro _ ⟨⟩; exact ⟨hsnd, hf⟩⟩

/-- Slot k exists below NX. -/
theorem slot_exists {s : State} (h : s.Inv) {k : BitVec 4} (hk : k.toNat < s.config.nx) :
    ∃ x, readSlot k s = .ok x ∧ s.slots[k.toNat]? = some x := by
  have hl : k.toNat < s.slots.length := by rw [h.slotCount]; exact hk
  exact ⟨s.slots[k.toNat], readSlot_eq_ok.2 (List.getElem?_eq_getElem hl), List.getElem?_eq_getElem hl⟩

/-- The slot of the transaction in progress exists. -/
theorem current_slot_exists {s : State} (h : s.Inv) (hst : s.st ≠ .idle) :
    ∃ x, readSlot s.curSlot s = .ok x ∧ s.slots[s.curSlot.toNat]? = some x := slot_exists h (h.curSlot hst)

/-- EX_CREATE over a slot outside any transaction (42_exchange.md R290). -/
theorem createSlot_keeps_inv {s : State} (h : s.Inv) {k : BitVec 4} {x : Slot} {hd : Header} {v : Value}
    (hk : s.slots[k.toNat]? = some x) (hx : x.life.inTransaction = false) (hv : holdsFamily s.config hd.opc v) :
    (writeSlot k (createdSlot hd v x) s).Inv := by
  have hs := h.slots _ _ hk
  have hcur : ¬ (s.st ≠ .idle ∧ k.toNat = s.curSlot.toNat) := by
    rw [← hs.singleFlight, hx]; simp
  refine ⟨h.config, ?_, h.portCount, h.curValid, h.replySink, h.inboundSink, h.curSlot, h.owner, ?_, ?_,
    h.txxPending, h.txResult, h.txx, h.txa, h.txaDepth, h.timerRun, h.elapsed, h.notStarted, h.reg, h.ports, h.cscr⟩
  · simpa using h.slotCount
  · intro j y hy
    rw [slots_writeSlot] at hy
    split at hy
    · rename_i hj
      cases hy
      obtain ⟨rfl, -⟩ := hj
      refine ⟨?_, fun _ => hv, fun hc => absurd hc (by simp [createdSlot]), ?_⟩
      · constructor
        · intro hc; simp [createdSlot, Life.inTransaction] at hc
        · intro hc; exact absurd hc hcur
      · intro he
        simp only [createdSlot] at he ⊢
        simp [he]
    · exact h.slots j y hy
  · intro y hst hy
    rw [slots_writeSlot, if_neg] at hy
    · exact h.transaction y hst hy
    · rintro ⟨e, -⟩
      exact hcur ⟨hst, e.symm⟩

/-! ## Caller ports -/

/-- While ST = IDLE a port outside TXN_WAIT may be READY (43_adapter.md R322). -/
theorem setReady_keeps_inv {s : State} (h : s.Inv) {c : Nat} (hst : s.st = .idle) : (setPhase c .ready s).Inv := by
  refine ⟨h.config, h.slotCount, ?_, h.curValid, h.replySink, h.inboundSink, h.curSlot, h.owner, h.slots, h.transaction,
    h.txxPending, h.txResult, h.txx, h.txa, h.txaDepth, h.timerRun, h.elapsed, h.notStarted, h.reg, ?_, h.cscr⟩
  · simpa using h.portCount
  · intro j q hq
    rw [ports_setPhase] at hq
    obtain ⟨q0, h0, rfl⟩ := Option.map_eq_some_iff.1 hq
    have hp := h.ports j q0 h0
    split
    · exact ⟨by simp [hst], by simp⟩
    · exact hp

/-- During a transaction a port that is not its owner may wait for admission (43_adapter.md R321). -/
theorem setAdmitWait_keeps_inv {s : State} (h : s.Inv) {c : Nat} {l : Latch} (hl : l.slot.toNat < s.config.nx)
    (hc : s.st ≠ .idle → c ≠ s.owner) : (setAdmitWait c l s).Inv := by
  refine ⟨h.config, h.slotCount, ?_, h.curValid, h.replySink, h.inboundSink, h.curSlot, h.owner, h.slots, h.transaction,
    h.txxPending, h.txResult, h.txx, h.txa, h.txaDepth, h.timerRun, h.elapsed, h.notStarted, h.reg, ?_, h.cscr⟩
  · simpa using h.portCount
  · intro j q hq
    rw [ports_setAdmitWait] at hq
    obtain ⟨q0, h0, rfl⟩ := Option.map_eq_some_iff.1 hq
    split
    · rename_i hj
      subst hj
      refine ⟨⟨by simp, ?_⟩, fun _ => hl⟩
      rintro ⟨hst, he⟩
      exact absurd he (hc hst)
    · exact h.ports j q0 h0

/-! ## ARM -/

/-- The state ARM leaves when the slot is CREATED and Prepare succeeds (43_adapter.md R322). -/
theorem armed_keeps_inv {s : State} (h : s.Inv) (hst : s.st = .idle) {c : Nat} (hc : c < s.config.nc) {d : LogicalAddr}
    {k : BitVec 4} {w : Word32} {x : Slot} (hk : s.slots[k.toNat]? = some x) (hx : x.life = .created) {r : TxReq}
    (hr : TxReqSound s.config r) (hf : r.foll = d) : (armed c d k w x r s).Inv := by
  have hs := h.slots _ _ hk
  have hlen : k.toNat < s.slots.length := (List.getElem?_eq_some_iff.1 hk).1
  refine ⟨h.config, ?_, ?_, by simp [armed], by simp [armed], h.inboundSink, fun _ => ?_, fun _ => hc, ?_, ?_, by simp [armed],
    by simp [armed, TxResultSound], ?_, h.txa, h.txaDepth, by simp [armed], by simp [armed], by simp [armed], h.reg, ?_, h.cscr⟩
  · simpa [armed] using h.slotCount
  · simpa [armed] using h.portCount
  · simpa [armed, h.slotCount] using h.slotCount ▸ hlen
  · intro j y hy
    simp only [armed, setPhase_slots, setPhase_config, setPhase_st, setPhase_curSlot, writeSlot_config, writeSlot_st,
      writeSlot_curSlot] at hy ⊢
    rw [slots_writeSlot] at hy
    split at hy
    · rename_i hj
      cases hy
      obtain ⟨rfl, -⟩ := hj
      exact ⟨by simp [Life.inTransaction], fun _ => hs.reqVal (by simp [hx]), by simp, hs.expOpc⟩
    · rename_i hj
      have hy0 := h.slots j y hy
      refine ⟨?_, hy0.reqVal, hy0.rplVal, hy0.expOpc⟩
      rw [hy0.singleFlight]
      simp only [hst, ne_eq, not_true_eq_false, false_and, reduceCtorEq, not_false_eq_true, true_and, false_iff]
      intro e
      exact hj ⟨e, e ▸ hlen⟩
  · intro y _ hy
    simp only [armed, setPhase_slots, setPhase_curSlot, writeSlot_curSlot, setPhase_st, writeSlot_st, setPhase_curDest,
      writeSlot_curDest, setPhase_timerRun, writeSlot_timerRun, setPhase_txXResult, writeSlot_txXResult] at hy ⊢
    rw [slots_writeSlot, if_pos ⟨rfl, hlen⟩] at hy
    cases hy
    exact ⟨rfl, rfl, by simp, by simp, by simp, by simp⟩
  · intro r' hr'
    simp only [armed, setPhase_txx, writeSlot_txx, Option.some.injEq] at hr'
    subst hr'
    exact ⟨hr, hf⟩
  · intro j q hq
    simp only [armed] at hq ⊢
    rw [ports_setPhase] at hq
    obtain ⟨q0, h0, rfl⟩ := Option.map_eq_some_iff.1 hq
    have hp := h.ports j q0 h0
    split
    · rename_i hj
      subst hj
      exact ⟨by simp, by simp⟩
    · rename_i hj
      refine ⟨?_, hp.latch⟩
      rw [hp.owner]
      simp [hst, hj]

/-- ARM never faults and keeps the invariant (43_adapter.md R322). -/
theorem arm_keeps_inv {s : State} (h : s.Inv) (hst : s.st = .idle) {c : Nat} (hc : c < s.config.nc) (d : LogicalAddr)
    {k : BitVec 4} (w : Word32) (hk : k.toNat < s.config.nx) : ∃ t, arm c d k w s = .next t ∧ t.Inv := by
  obtain ⟨x, hr, hx⟩ := slot_exists h hk
  by_cases hl : x.life = .created
  · obtain ⟨q, hq, hqs⟩ := prepare_sound (c := s.config) (d := d) (x := x) (by simp [hl])
    cases q with
    | none =>
      exact ⟨raise (.caller c) .payloadTooLarge (setPhase c .ready s), by simp [arm, hr, hl, hq],
        raise_keeps_inv (setReady_keeps_inv h hst)⟩
    | some r =>
      obtain ⟨hsnd, hf⟩ := hqs r rfl
      exact ⟨armed c d k w x r s, by simp [arm, hr, hl, hq], armed_keeps_inv h hst hc hx hl hsnd hf⟩
  · exact ⟨raise (.caller c) .illegalState (setPhase c .ready s), by simp [arm, hr, hl],
      raise_keeps_inv (setReady_keeps_inv h hst)⟩

/-! ## Terminal transitions -/

/-- A terminal transition of the pending transaction: ST and LIFE agree, and the transmit result fits (43_adapter.md R323,
R328, R332). -/
theorem endTransaction_keeps_inv {s : State} (h : s.Inv) (hst : s.st = .pending) {x x' : Slot} {e : AdapterState}
    (hk : s.slots[s.curSlot.toNat]? = some x) (he : e ≠ .idle ∧ e ≠ .pending) {tx : TxResult} {q : Option TxReq}
    (hx' : SlotSound s.config e s.curSlot s.curSlot.toNat x')
    (ht' : TransactionSound e s.curDest false tx x') (hq : q.isSome = true ↔ tx = .notYet)
    (hq' : ∀ r, q = some r → s.txx = some r) (htx : TxResultSound e tx) :
    (writeSlot s.curSlot x' (endTransaction e { s with txx := q, txXResult := tx })).Inv := by
  have hlen : s.curSlot.toNat < s.slots.length := (List.getElem?_eq_some_iff.1 hk).1
  refine ⟨h.config, ?_, h.portCount, ?_, ?_, h.inboundSink, fun _ => h.curSlot (by simp [hst]),
    fun _ => h.owner (by simp [hst]), ?_, ?_, ?_, htx, ?_, h.txa, h.txaDepth, ?_, h.elapsed, ?_, h.reg, ?_, h.cscr⟩
  · simpa using h.slotCount
  · simp [he.2]
  · simpa [he.1, hst] using h.replySink
  · intro j y hy
    rw [slots_writeSlot] at hy
    split at hy
    · rename_i hj
      cases hy
      obtain ⟨rfl, -⟩ := hj
      exact hx'
    · rename_i hj
      have hy0 := h.slots j y hy
      refine ⟨?_, hy0.reqVal, hy0.rplVal, hy0.expOpc⟩
      rw [hy0.singleFlight]
      simp [hst, he.1]
  · intro y _ hy
    rw [slots_writeSlot, if_pos ⟨rfl, hlen⟩] at hy
    cases hy
    exact ht'
  · simpa [he.1] using hq
  · intro r hr
    exact h.txx r (hq' r hr)
  · simp [he.2]
  · simp [he.2]
  · intro c p hp
    have hp0 := h.ports c p hp
    refine ⟨?_, hp0.latch⟩
    rw [hp0.owner]
    simp [hst, he.1]

/-- While TXX holds a request the transaction is pending or was resolved by its reply (43_adapter.md R323). -/
theorem txx_pending_or_resolved {s : State} (h : s.Inv) (hx : s.txx ≠ none) :
    s.txXResult = .notYet ∧ (s.st = .pending ∨ s.st = .resolved) := by
  obtain ⟨r, hr⟩ := Option.ne_none_iff_exists'.1 hx
  obtain ⟨hni, hny⟩ := h.txxPending.1 (by simp [hr])
  have hres := h.txResult
  rw [hny] at hres
  refine ⟨hny, ?_⟩
  cases hst : s.st <;> simp_all [TxResultSound]

/-- TX_DONE X never faults and keeps the invariant (43_adapter.md R323). -/
theorem txDoneX_keeps_inv {s : State} (h : s.Inv) (ok : Bool) : ∃ t, txDoneX ok s = .next t ∧ t.Inv := by
  by_cases hx : s.txx = none
  · exact ⟨s, by simp [txDoneX, hx], h⟩
  obtain ⟨hny, hst | hst⟩ := txx_pending_or_resolved h hx
  · obtain ⟨x, hr, hk⟩ := current_slot_exists h (by simp [hst])
    have hs := h.slots _ _ hk
    have ht := h.transaction _ (by simp [hst]) hk
    have hlife : x.life = .armed := by simpa [hst, transactionLife] using ht.life
    have hrpl : x.rplValid = false := by
      have := ht.reply
      simp only [hst, reduceCtorEq, false_and, iff_false] at this
      simpa using this
    cases ok with
    | false =>
      have e : { endTransaction .failed { s with txx := none, txXResult := .fail } with
            slots := s.slots.set s.curSlot.toNat x } =
          endTransaction .failed { s with txx := none, txXResult := .fail } := by
        have hl := (List.getElem?_eq_some_iff.1 hk)
        obtain ⟨hl, hv⟩ := hl
        simp only [endTransaction, State.mk.injEq, true_and, and_true]
        rw [← hv, List.set_getElem_self]
      refine ⟨endTransaction .failed { s with txx := none, txXResult := .fail }, by simp [txDoneX, hx, hst], ?_⟩
      rw [← e]
      refine endTransaction_keeps_inv h hst hk (by simp) ?_ ?_ (by simp) (by simp) rfl
      · exact ⟨by simp [hlife, Life.inTransaction], hs.reqVal, hs.rplVal, hs.expOpc⟩
      · exact ⟨by simp [hlife, transactionLife], ht.dest, by simp [hrpl], by simp, by simp, by simp⟩
    | true =>
      have hcs : ∀ q : State, q.st = s.st → q.curSlot = s.curSlot → readCurSlot q = .ok s.curSlot := by
        intro q h1 h2
        exact readCurSlot_eq_ok.2 ⟨by simp [h1, hst], h2.symm⟩
      have hrs : ∀ q : State, q.slots = s.slots → readSlot s.curSlot q = .ok x := by
        intro q h1
        exact readSlot_eq_ok.2 (by rw [h1]; exact hk)
      cases ha : x.ans with
      | true =>
        refine ⟨{ s with txx := none, txXResult := .ok, timerRun := true }, ?_, ?_⟩
        · simp only [txDoneX, hx, hst]
          simp [hcs, hrs, answerExpected, ha, hst]
        · refine ⟨h.config, h.slotCount, h.portCount, h.curValid, h.replySink, h.inboundSink, h.curSlot, h.owner, h.slots, ?_,
            by simp, by simp [hst, TxResultSound], by simp, h.txa, h.txaDepth, by simp [hst], h.elapsed, by simp, h.reg,
            h.ports, h.cscr⟩
          intro y hni hy
          have hyx : y = x := by
            have : some y = some x := hy.symm.trans hk
            simpa using this
          subst hyx
          exact ⟨ht.life, ht.dest, ht.reply, fun _ => ha, by simp [hst], by simp [hst]⟩
      | false =>
        refine ⟨writeSlot s.curSlot { x with life := .resolved }
          (endTransaction .resolved { s with txx := none, txXResult := .ok }), ?_, ?_⟩
        · simp only [txDoneX, hx, hst]
          simp [hcs, hrs, answerExpected, ha, hst]
        · refine endTransaction_keeps_inv h hst hk (by simp) ?_ ?_ (by simp) (by simp) trivial
          · exact ⟨by simp [Life.inTransaction], fun _ => hs.reqVal (by simp [hlife]), hs.rplVal, hs.expOpc⟩
          · exact ⟨rfl, ht.dest, by simp [hrpl, ha], by simp, by simp, by simp⟩
  · refine ⟨{ s with txx := none, txXResult := if ok then .ok else .fail }, by simp [txDoneX, hx, hst], ?_⟩
    have hne : (if ok then TxResult.ok else .fail) ≠ .notYet := by cases ok <;> simp
    refine ⟨h.config, h.slotCount, h.portCount, h.curValid, h.replySink, h.inboundSink, h.curSlot, h.owner, h.slots, ?_,
      by simp [hne], by simp [hst, TxResultSound], by simp, h.txa, h.txaDepth, ?_, h.elapsed, h.notStarted, h.reg,
      h.ports, h.cscr⟩
    · intro y hni hy
      have ht := h.transaction y hni hy
      refine ⟨ht.life, ht.dest, ht.reply, ht.timed, ht.timedOut, fun hr ha => ?_⟩
      exact absurd (ht.fireAndForget hr ha) (by simp [hny])
    · have := h.timerRun
      simp only [hst, reduceCtorEq, false_and, iff_false] at this
      simp [this, hst]

/-! ## Reception -/

/-- The inbound path never faults and keeps the invariant (43_adapter.md R329). -/
theorem inbound_keeps_inv {s : State} (h : s.Inv) (i : LogicalAddr) (o : Byte) :
    ∃ t, inbound i o s = .ok t ∧ t.Inv := by
  cases hl : lookupReg o s with
  | none => exact ⟨s, by simp [inbound, hl], h⟩
  | some e =>
    obtain ⟨hv, rfl⟩ := lookupReg_eq_some.1 hl
    cases hr : (readReg o s).respond with
    | false => exact ⟨s, by simp [inbound, hl, hr], h⟩
    | true =>
      have hrv : readRegVal (readReg o s) = .ok (readReg o s).val := readRegVal_eq_ok.2 ⟨hv, hr, rfl⟩
      cases hs : serialize (readReg o s).val paramMax with
      | none => exact ⟨s, by simp [inbound, hl, hr, hrv, hs], h⟩
      | some p =>
        by_cases hd : s.txa.length = s.config.txaDepth
        · exact ⟨s, by simp [inbound, hl, hr, hrv, hs, pushReply, hd], h⟩
        · obtain ⟨r, hb, hsnd, -⟩ := buildTxReq_sound (c := s.config)
            (d := if (readReg o s).bcast then broadcast else i) (o := (readReg o s).rplOpc) (serialize_length hs)
          refine ⟨{ s with txa := s.txa ++ [r] }, by simp [inbound, hl, hr, hrv, hs, pushReply, hd, hb], ?_⟩
          have := h.txaDepth
          exact pushTxa_keeps_inv h hsnd (by omega)

theorem inboundAndRespond_keeps_inv {s : State} (h : s.Inv) (p : Port) (i : LogicalAddr) (o : Byte) (n : Nat) :
    ∃ t, inboundAndRespond p i o n s = .next t ∧ t.Inv := by
  obtain ⟨t, ht, hi⟩ := inbound_keeps_inv h i o
  exact ⟨respond p { result := .none, info := receivedInfo n, tail := [] } t,
    by simp only [inboundAndRespond, ht, orFault_ok], respond_keeps_inv hi⟩

/-- Correlates never faults (43_adapter.md R327). -/
theorem correlates_ok {s : State} (h : s.Inv) (i : LogicalAddr) :
    ∃ b, correlates i s = .ok b ∧ (b = true → s.st = .pending) ∧
      (b = true → ∀ x, s.slots[s.curSlot.toNat]? = some x → x.ans = true) := by
  by_cases hst : s.st = .pending
  · obtain ⟨x, hr, hk⟩ := current_slot_exists h (by simp [hst])
    have hc : readCurSlot s = .ok s.curSlot := readCurSlot_eq_ok.2 ⟨by simp [hst], rfl⟩
    have hd : readCurDest s = .ok s.curDest := readCurDest_eq_ok.2 ⟨by simp [hst], rfl⟩
    refine ⟨answerExpected x && (i == s.curDest || i == broadcast), ?_, fun _ => hst, ?_⟩
    · simp only [correlates, hst, currentSlot, hc, hr, hd, ne_eq, not_true_eq_false, if_false]
    intro hb y hy
    rw [hk] at hy
    cases hy
    simp only [answerExpected, Bool.and_eq_true] at hb
    exact hb.1
  · exact ⟨false, by simp [correlates, hst], by simp, by simp⟩

/-- A completed slot holds a reply of the expected family and is otherwise the slot it was (42_exchange.md R293). -/
theorem complete_eq_ok {cat : List (Byte × Family)} {x x' : Slot} {o : Byte} {p : List Byte}
    (h : complete cat x o p = .ok (.ok x')) :
    x.expValid = true ∧ o = x.expOpc ∧
      ∃ v, deserialize (catalogFamily cat x.expOpc) p = .ok (some v) ∧ x' = { x with rplVal := v, rplValid := true } := by
  unfold complete at h
  split at h
  · cases h
  · split at h
    · cases h
    · split at h
      · cases h
      · cases h
      · cases h
        exact ⟨by simpa using ‹¬ x.expValid = false›, by simpa using ‹¬ o ≠ x.expOpc›, _, by assumption, rfl⟩

/-- Complete never faults (20_memory.md R104). -/
theorem complete_ok (cat : List (Byte × Family)) (x : Slot) (o : Byte) (p : List Byte) : ∃ r, complete cat x o p = .ok r := by
  unfold complete
  obtain ⟨r, hr⟩ := deserialize_ok (catalogFamily cat x.expOpc) p
  rw [hr]
  split
  · exact ⟨_, rfl⟩
  · split
    · exact ⟨_, rfl⟩
    · cases r <;> exact ⟨_, rfl⟩

/-- RECEIVED never faults and keeps the invariant (43_adapter.md R326). -/
theorem receive_keeps_inv {s : State} (h : s.Inv) (p : Port) (i : LogicalAddr) (b : List Byte) :
    ∃ t, receive p i b s = .next t ∧ t.Inv := by
  cases b with
  | nil => exact ⟨_, rfl, respond_keeps_inv h⟩
  | cons o params =>
    obtain ⟨cor, hc, hst, hans⟩ := correlates_ok h i
    cases cor with
    | false =>
      obtain ⟨t, ht, hi⟩ := inboundAndRespond_keeps_inv h p i o (o :: params).length
      exact ⟨t, by simp only [receive, hc, orFault_ok, Bool.false_eq_true, if_false]; exact ht, hi⟩
    | true =>
      have hst := hst rfl
      obtain ⟨x, hr, hk⟩ := current_slot_exists h (by simp [hst])
      have hcs : readCurSlot s = .ok s.curSlot := readCurSlot_eq_ok.2 ⟨by simp [hst], rfl⟩
      obtain ⟨res, hcm⟩ := complete_ok s.config.catalog x o params
      cases res with
      | error e =>
        obtain ⟨t, ht, hi⟩ := inboundAndRespond_keeps_inv h p i o (o :: params).length
        exact ⟨t, by simp only [receive, hc, hcs, hr, hcm, orFault_ok, if_true]; exact ht, hi⟩
      | ok x' =>
        refine ⟨respond p { result := .none, info := receivedInfo (o :: params).length, tail := [] } (resolveReply s.curSlot x' s),
          by simp only [receive, hc, hcs, hr, hcm, orFault_ok, if_true], respond_keeps_inv ?_⟩
        obtain ⟨hev, -, v, hv, rfl⟩ := complete_eq_ok hcm
        have hs := h.slots _ _ hk
        have ht := h.transaction _ (by simp [hst]) hk
        have hlife : x.life = .armed := by simpa [hst, transactionLife] using ht.life
        have hm : 14 ≤ s.config.osdNameMax := by
          have := h.config
          simp only [Config.wf, Bool.and_eq_true, decide_eq_true_eq] at this
          omega
        have hx := hans rfl x hk
        have hq : s.txx.isSome = true ↔ s.txXResult = .notYet := by
          simpa [hst] using h.txxPending
        exact endTransaction_keeps_inv (q := s.txx) (tx := s.txXResult) h hst hk (by simp)
          ⟨by simp [Life.inTransaction], fun _ => hs.reqVal (by simp [hlife]), fun _ => ⟨hev, deserialize_legal hm hv⟩, hs.expOpc⟩
          ⟨rfl, ht.dest, by simp [hx], by simp, by simp, by simp [hx]⟩ hq (fun _ hr => hr) trivial

/-! ## Timer -/

/-- TICK keeps the invariant: ELAPSED never passes WAIT_MS (43_adapter.md R331). -/
theorem tick_keeps_inv {s : State} (h : s.Inv) : (tick s).Inv := by
  unfold tick
  split
  · rename_i hc
    simp only [Bool.and_eq_true, beq_iff_eq, BitVec.ult, decide_eq_true_eq] at hc
    obtain ⟨⟨hr, hst⟩, hlt⟩ := hc
    refine ⟨h.config, h.slotCount, h.portCount, h.curValid, h.replySink, h.inboundSink, h.curSlot, h.owner, h.slots,
      h.transaction, h.txxPending, h.txResult, h.txx, h.txa, h.txaDepth, h.timerRun, ?_, ?_, h.reg, h.ports, h.cscr⟩
    · have := s.waitMs.isLt
      show (s.elapsed + 1).toNat ≤ s.waitMs.toNat
      rw [BitVec.toNat_add, show (1 : Word32).toNat = 1 from rfl]
      omega
    · intro _ hn
      rw [hr] at hn
      cases hn
  · exact h

/-- TIMEOUT, when enabled, never faults and keeps the invariant (43_adapter.md R332). -/
theorem timeoutStep_keeps_inv {s : State} (h : s.Inv) (he : timeoutEnabled s = true) :
    ∃ t, timeoutStep s = .next t ∧ t.Inv := by
  simp only [timeoutEnabled, Bool.and_eq_true, beq_iff_eq] at he
  obtain ⟨⟨hst, hrun⟩, -⟩ := he
  obtain ⟨x, hr, hk⟩ := current_slot_exists h (by simp [hst])
  have hcs : readCurSlot s = .ok s.curSlot := readCurSlot_eq_ok.2 ⟨by simp [hst], rfl⟩
  have hs := h.slots _ _ hk
  have ht := h.transaction _ (by simp [hst]) hk
  have hlife : x.life = .armed := by simpa [hst, transactionLife] using ht.life
  have hok : s.txXResult = .ok := (h.timerRun.1 hrun).2
  have hrpl : x.rplValid = false := by
    have := ht.reply
    simp only [hst, reduceCtorEq, false_and, iff_false] at this
    simpa using this
  refine ⟨writeSlot s.curSlot { x with life := .timedOut } (endTransaction .timedOut s),
    by simp only [timeoutStep, hcs, hr, orFault_ok], ?_⟩
  have hq : s.txx.isSome = true ↔ s.txXResult = .notYet := by simpa [hst] using h.txxPending
  exact endTransaction_keeps_inv (q := s.txx) (tx := s.txXResult) h hst hk (by simp)
    ⟨by simp [Life.inTransaction], fun _ => hs.reqVal (by simp [hlife]), hs.rplVal, hs.expOpc⟩
    ⟨rfl, ht.dest, by simp [hrpl], by simp, fun _ => ht.timed hrun, by simp⟩ hq (fun _ hr => hr) hok

/-! ## RETURN -/

/-- RETURN, when enabled, never faults and keeps the invariant (43_adapter.md R333). -/
theorem returnStep_keeps_inv {s : State} (h : s.Inv) {c : Nat} (he : returnEnabled c s = .ok true) :
    ∃ t, returnStep c s = .next t ∧ t.Inv := by
  obtain ⟨hterm, hnone, rfl⟩ := returnEnabled_eq_true.1 he
  have hst : s.st ≠ .idle := by intro e; simp [e, AdapterState.terminal] at hterm
  have hst' : s.st ≠ .pending := by intro e; simp [e, AdapterState.terminal] at hterm
  obtain ⟨x, hr, hk⟩ := current_slot_exists h hst
  have hcs : readCurSlot s = .ok s.curSlot := readCurSlot_eq_ok.2 ⟨hst, rfl⟩
  have hs := h.slots _ _ hk
  have ht := h.transaction _ hst hk
  have hlen : s.curSlot.toNat < s.slots.length := (List.getElem?_eq_some_iff.1 hk).1
  have hny : s.txXResult ≠ .notYet := fun e => by
    have := h.txxPending.2 ⟨hst, e⟩
    simp [hnone] at this
  obtain ⟨res, hres⟩ : ∃ res, combine s.txXResult s.st = some res := by
    have := h.txResult
    cases hs : s.st <;> cases hx : s.txXResult <;> simp_all [TxResultSound, combine, AdapterState.terminal]
  have hinv : (returned s.owner s.curSlot x s).Inv := by
    refine ⟨h.config, ?_, ?_, ?_, by simp [returned], h.inboundSink, by simp [returned], by simp [returned], ?_, by simp [returned],
      ?_, by simp [returned, TxResultSound], ?_, h.txa, h.txaDepth, by simp [returned], h.elapsed, by simp [returned], h.reg, ?_, h.cscr⟩
    · simpa [returned] using h.slotCount
    · simpa [returned] using h.portCount
    · have := h.curValid
      simpa [returned, hst'] using this
    · intro j y hy
      simp only [returned, setPhase_slots, setPhase_config, setPhase_st, setPhase_curSlot, writeSlot_config, writeSlot_st,
        writeSlot_curSlot] at hy ⊢
      rw [slots_writeSlot] at hy
      split at hy
      · rename_i hj
        cases hy
        exact ⟨by simp [Life.inTransaction], by simp, hs.rplVal, hs.expOpc⟩
      · rename_i hj
        have hy0 := h.slots j y hy
        refine ⟨?_, hy0.reqVal, hy0.rplVal, hy0.expOpc⟩
        rw [hy0.singleFlight]
        simp only [ne_eq, not_true_eq_false, false_and, iff_false, not_and]
        intro _ e
        exact hj ⟨e, e ▸ hlen⟩
    · simp [returned, hnone]
    · intro r hr'
      simp [returned, hnone] at hr'
    · intro j q hq
      simp only [returned] at hq ⊢
      rw [ports_setPhase] at hq
      obtain ⟨q0, h0, rfl⟩ := Option.map_eq_some_iff.1 hq
      have hp := h.ports j q0 h0
      split
      · exact ⟨by simp, by simp⟩
      · rename_i hj
        refine ⟨?_, hp.latch⟩
        rw [hp.owner]
        simp [hj]
  cases hv : x.rplValid with
  | false =>
    exact ⟨respond (.caller s.owner) { result := res, info := returnInfo x.rplValid, tail := [] } (returned s.owner s.curSlot x s),
      by simp only [returnStep, hcs, hr, hres, orFault_ok, respondReply, hv, Bool.false_eq_true, if_false],
      respond_keeps_inv hinv⟩
  | true =>
    have hrv : readRplVal x = .ok x.rplVal := readRplVal_eq_ok.2 ⟨hv, rfl⟩
    exact ⟨respond (.caller s.owner) { result := res, info := returnInfo x.rplValid, tail := valueBytes x.rplVal }
        (returned s.owner s.curSlot x s),
      by simp only [returnStep, hcs, hr, hres, orFault_ok, respondReply, hv, if_true, hrv], respond_keeps_inv hinv⟩

end Sys2Proof.Machine
end

