-- ==== Sys2Proof/Laws/PerInstr.lean ====
section
/-! SUPPORT. Per instruction: how many bytes it has. "A decoder tells the length of a command from its header alone, given
CATALOG: 4 bytes of CMDW" and the operands (spec/30_encoding.md R167); a frame has an opcode byte and its parameters (R140). -/

namespace Sys2Proof.Laws

/-- The bytes of a VALUE operand: 0 for EMPTY, 4 for a numeric family, 1 + L for a byte family (R167). -/
def valueLength : Operand → Nat
  | .none => 0
  | .word _ => 4
  | .bytes b => 1 + b.length

/-- The bytes of an instruction after its CMDW or its opcode byte (R157, R140). -/
def operandLength : Instr → Nat
  | .exCreate _ v => valueLength v
  | .exchange _ _ => 4
  | .exRead _ => 0
  | .announce _ v => valueLength v
  | .revoke _ => 0
  | .lookup _ => 0
  | .statusRead _ => 0
  | .codecSer _ v => valueLength v
  | .codecDes _ b => b.length
  | .received _ b => b.length
  | .txDoneXFail _ => 0
  | .txDoneXOk _ => 0
  | .txDoneAFail _ => 0
  | .txDoneAOk _ => 0
  | .tick _ => 0
  | .reserved0 _ => 0
  | .reservedD _ => 0
  | .reservedE _ => 0
  | .reservedF _ => 0
  | .getCecVersion p => p.length
  | .cecVersion p => p.length
  | .givePhysicalAddr p => p.length
  | .reportPhysicalAddr p => p.length
  | .standby p => p.length
  | .giveOsdName p => p.length
  | .setOsdName p => p.length
  | .giveDeviceVendorId p => p.length
  | .deviceVendorId p => p.length
  | .getMenuLanguage p => p.length
  | .setMenuLanguage p => p.length
  | .giveDevicePowerStatus p => p.length
  | .reportPowerStatus p => p.length
  | .userControlPressed p => p.length
  | .userControlReleased p => p.length
  | .otherOpcode _ p => p.length

/-- The length law of one instruction (R167, R140). -/
def EncodedLength.Statement (i : Instr) : Prop :=
  (encode i).length = (if i.isCommand then 4 else 1) + operandLength i

@[simp] theorem headerBytes_length (op : BitVec 4) (h : Header) : (headerBytes op h).length = 4 := by simp [headerBytes]

@[simp] theorem operandBytes_length (v : Operand) : (operandBytes v).length = valueLength v := by
  cases v <;> simp [operandBytes, valueLength, Nat.add_comm]

theorem EncodedLength.exCreate (h : Header) (v : Operand) : EncodedLength.Statement (.exCreate h v) := by
  simp [Statement, encode, operandLength, Instr.isCommand]

theorem EncodedLength.exchange (h : Header) (w : Word32) : EncodedLength.Statement (.exchange h w) := by
  simp [Statement, encode, operandLength, Instr.isCommand]

theorem EncodedLength.exRead (h : Header) : EncodedLength.Statement (.exRead h) := by
  simp [Statement, encode, operandLength, Instr.isCommand]

theorem EncodedLength.announce (h : Header) (v : Operand) : EncodedLength.Statement (.announce h v) := by
  simp [Statement, encode, operandLength, Instr.isCommand]

theorem EncodedLength.revoke (h : Header) : EncodedLength.Statement (.revoke h) := by
  simp [Statement, encode, operandLength, Instr.isCommand]

theorem EncodedLength.lookup (h : Header) : EncodedLength.Statement (.lookup h) := by
  simp [Statement, encode, operandLength, Instr.isCommand]

theorem EncodedLength.statusRead (h : Header) : EncodedLength.Statement (.statusRead h) := by
  simp [Statement, encode, operandLength, Instr.isCommand]

theorem EncodedLength.codecSer (h : Header) (v : Operand) : EncodedLength.Statement (.codecSer h v) := by
  simp [Statement, encode, operandLength, Instr.isCommand]

theorem EncodedLength.codecDes (h : Header) (b : List Byte) : EncodedLength.Statement (.codecDes h b) := by
  simp [Statement, encode, operandLength, Instr.isCommand]

theorem EncodedLength.received (h : Header) (b : List Byte) : EncodedLength.Statement (.received h b) := by
  simp [Statement, encode, operandLength, Instr.isCommand]

theorem EncodedLength.txDoneXFail (r : TxDoneRest) : EncodedLength.Statement (.txDoneXFail r) := by
  simp [Statement, encode, operandLength, Instr.isCommand]

theorem EncodedLength.txDoneXOk (r : TxDoneRest) : EncodedLength.Statement (.txDoneXOk r) := by
  simp [Statement, encode, operandLength, Instr.isCommand]

theorem EncodedLength.txDoneAFail (r : TxDoneRest) : EncodedLength.Statement (.txDoneAFail r) := by
  simp [Statement, encode, operandLength, Instr.isCommand]

theorem EncodedLength.txDoneAOk (r : TxDoneRest) : EncodedLength.Statement (.txDoneAOk r) := by
  simp [Statement, encode, operandLength, Instr.isCommand]

theorem EncodedLength.tick (h : Header) : EncodedLength.Statement (.tick h) := by
  simp [Statement, encode, operandLength, Instr.isCommand]

theorem EncodedLength.reserved0 (h : Header) : EncodedLength.Statement (.reserved0 h) := by
  simp [Statement, encode, operandLength, Instr.isCommand]

theorem EncodedLength.reservedD (h : Header) : EncodedLength.Statement (.reservedD h) := by
  simp [Statement, encode, operandLength, Instr.isCommand]

theorem EncodedLength.reservedE (h : Header) : EncodedLength.Statement (.reservedE h) := by
  simp [Statement, encode, operandLength, Instr.isCommand]

theorem EncodedLength.reservedF (h : Header) : EncodedLength.Statement (.reservedF h) := by
  simp [Statement, encode, operandLength, Instr.isCommand]

theorem EncodedLength.getCecVersion (p : List Byte) : EncodedLength.Statement (.getCecVersion p) := Nat.add_comm _ _

theorem EncodedLength.cecVersion (p : List Byte) : EncodedLength.Statement (.cecVersion p) := Nat.add_comm _ _

theorem EncodedLength.givePhysicalAddr (p : List Byte) : EncodedLength.Statement (.givePhysicalAddr p) := Nat.add_comm _ _

theorem EncodedLength.reportPhysicalAddr (p : List Byte) : EncodedLength.Statement (.reportPhysicalAddr p) := Nat.add_comm _ _

theorem EncodedLength.standby (p : List Byte) : EncodedLength.Statement (.standby p) := Nat.add_comm _ _

theorem EncodedLength.giveOsdName (p : List Byte) : EncodedLength.Statement (.giveOsdName p) := Nat.add_comm _ _

theorem EncodedLength.setOsdName (p : List Byte) : EncodedLength.Statement (.setOsdName p) := Nat.add_comm _ _

theorem EncodedLength.giveDeviceVendorId (p : List Byte) : EncodedLength.Statement (.giveDeviceVendorId p) := Nat.add_comm _ _

theorem EncodedLength.deviceVendorId (p : List Byte) : EncodedLength.Statement (.deviceVendorId p) := Nat.add_comm _ _

theorem EncodedLength.getMenuLanguage (p : List Byte) : EncodedLength.Statement (.getMenuLanguage p) := Nat.add_comm _ _

theorem EncodedLength.setMenuLanguage (p : List Byte) : EncodedLength.Statement (.setMenuLanguage p) := Nat.add_comm _ _

theorem EncodedLength.giveDevicePowerStatus (p : List Byte) : EncodedLength.Statement (.giveDevicePowerStatus p) := Nat.add_comm _ _

theorem EncodedLength.reportPowerStatus (p : List Byte) : EncodedLength.Statement (.reportPowerStatus p) := Nat.add_comm _ _

theorem EncodedLength.userControlPressed (p : List Byte) : EncodedLength.Statement (.userControlPressed p) := Nat.add_comm _ _

theorem EncodedLength.userControlReleased (p : List Byte) : EncodedLength.Statement (.userControlReleased p) := Nat.add_comm _ _

theorem EncodedLength.otherOpcode (o : Byte) (p : List Byte) : EncodedLength.Statement (.otherOpcode o p) := Nat.add_comm _ _

end Sys2Proof.Laws
end

