-- ==== Sys2Proof/Laws/Steps.lean ====
section
/-! SUPPORT. What a step of each agent can do, said once (spec/43_adapter.md R320): the forms in which step answers next. -/

namespace Sys2Proof.Machine

/-- What the turn m leaves, taken in state s (R320; log 3, 4 for the holds). -/
inductive MoveEffect : Move → State → State → Prop where
  | holds (m : Move) (s : State) : MoveEffect m s s
  | command (p : Port) (i : Instr) (rest : List Byte) (s t : State)
      (hp : ∀ c, p = .caller c → ∃ q, s.ports[c]? = some q ∧ q.phase = .ready)
      (hd : decodeCommand s.config.catalog (portBytes p s) = .ok (i, rest)) (h : exec i (issueFrom p rest s) = .next t) :
      MoveEffect (portMove p) s t
  | frame (u : BusUnit) (rest : List BusUnit) (i : Instr) (s t : State) (hu : s.env.inbound = u :: rest)
      (hi : decodeFrame (u.data.toList.take u.len.toNat) = .ok i) (h : exec i (deliverFrom u rest s) = .next t) : MoveEffect .deliver s t
  | footer (u : BusUnit) (rest : List BusUnit) (s : State) (hu : s.env.inbound = u :: rest) :
      MoveEffect .deliver s
        (respond .channel { result := .none, info := receivedInfo 0, tail := [] } (deliverFrom u rest s))
  | admits (c : Nat) (q : CallerPort) (s t : State) (hq : s.ports[c]? = some q) (hp : q.phase = .admitWait)
      (hst : s.st = .idle) (h : ArmEffect c q.latch.dest q.latch.slot q.latch.wait s t) : MoveEffect (.caller c) s t
  | returns (c : Nat) (q : CallerPort) (x : Slot) (res : Result) (r : Response) (s : State) (hq : s.ports[c]? = some q)
      (hp : q.phase = .txnWait) (he : returnEnabled c s = .ok true) (hk : s.slots[s.curSlot.toNat]? = some x)
      (hc : combine s.txXResult s.st = some res) :
      MoveEffect (.caller c) s (respond (.caller c) r (returned c s.curSlot x s))
  | timesOut (x : Slot) (s : State) (he : timeoutEnabled s = true) (hk : s.slots[s.curSlot.toNat]? = some x) :
      MoveEffect .timeout s (writeSlot s.curSlot { x with life := .timedOut } (endTransaction .timedOut s))
  | resets (s : State) : MoveEffect .reset s (resetStep s)

/-- A command word decodes to a command. -/
theorem decodeOperands_isCommand {cat : List (Byte × Family)} {op : BitVec 4} {h : Header} {bs rest : List Byte} {i : Instr}
    (hd : decodeOperands cat op h bs = some (i, rest)) : i.isCommand = true := by
  have mapped : ∀ {α : Type} {x : Option (α × List Byte)} {f : α → Instr}, (∀ a, (f a).isCommand = true) →
      x.map (fun (a, rest) => (f a, rest)) = some (i, rest) → i.isCommand = true := by
    intro α x f hf e
    obtain ⟨⟨a, r⟩, -, e⟩ := Option.map_eq_some_iff.1 e
    cases e
    exact hf a
  have taken : ∀ {j : Instr}, j.isCommand = true → some (j, bs) = some (i, rest) → i.isCommand = true := by
    rintro j hj ⟨⟩
    exact hj
  unfold decodeOperands at hd
  split at hd
  case h_5 =>
    split at hd
    · exact mapped (fun _ => rfl) hd
    · exact taken rfl hd
  case h_12 => split at hd <;> exact taken rfl hd
  all_goals first | exact taken rfl hd | exact mapped (fun _ => rfl) hd

theorem decodeCommand_isCommand {cat : List (Byte × Family)} {bs rest : List Byte} {i : Instr}
    (h : decodeCommand cat bs = .ok (i, rest)) : i.isCommand = true := by
  unfold decodeCommand at h
  split at h
  · cases h
  · split at h
    · cases h
    · cases h
      exact decodeOperands_isCommand ‹_›

theorem frameInstr_isCommand (o : Byte) (p : List Byte) : (frameInstr o p).isCommand = false := by
  have pick : ∀ (b : Prop) [Decidable b] (x y : Instr), x.isCommand = false → y.isCommand = false →
      (if b then x else y).isCommand = false := by
    intro b _ x y hx hy
    split <;> assumption
  unfold frameInstr
  repeat (refine pick _ _ _ rfl ?_)
  rfl

/-- A frame decodes to a frame instruction. -/
theorem decodeFrame_isCommand {b : List Byte} {i : Instr} (h : decodeFrame b = .ok i) : i.isCommand = false := by
  unfold decodeFrame at h
  split at h
  · cases h
  · split at h
    · cases h
    · cases h
      exact frameInstr_isCommand _ _

theorem commandStep_effect {p : Port} {s t : State} (h : commandStep p s = .next t)
    (hp : ∀ c, p = .caller c → ∃ q, s.ports[c]? = some q ∧ q.phase = .ready) : MoveEffect (portMove p) s t := by
  unfold commandStep at h
  split at h
  · cases h; exact .holds _ s
  · exact .command p _ _ s t hp ‹_› h

theorem callerStep_effect {c : Nat} {s t : State} (h : callerStep c s = .next t) : MoveEffect (.caller c) s t := by
  unfold callerStep at h
  split at h
  · cases h; exact .holds _ s
  · rename_i q hq
    split at h
    · rename_i hp
      exact commandStep_effect (p := .caller c) h (by rintro _ ⟨⟩; exact ⟨q, hq, hp⟩)
    · rename_i hp
      split at h
      · obtain ⟨l, hl, h⟩ := orFault_eq_next.1 h
        obtain ⟨-, rfl⟩ := readLatch_eq_ok.1 hl
        exact .admits c q s t hq hp ‹_› (arm_effect h)
      · cases h; exact .holds _ s
    · rename_i hp
      obtain ⟨e, he, h⟩ := orFault_eq_next.1 h
      split at h
      · obtain rfl : e = true := ‹_›
        obtain ⟨k, hk, h⟩ := orFault_eq_next.1 h
        obtain ⟨-, rfl⟩ := readCurSlot_eq_ok.1 hk
        obtain ⟨x, hx, h⟩ := orFault_eq_next.1 h
        split at h
        · cases h
        · obtain ⟨r, -, rfl⟩ := respondReply_effect h
          exact .returns c q x _ r s hq hp he (readSlot_eq_ok.1 hx) ‹_›
      · cases h; exact .holds _ s

theorem deliverStep_effect {s t : State} (h : deliverStep s = .next t) : MoveEffect .deliver s t := by
  unfold deliverStep at h
  split at h
  · cases h; exact .holds _ s
  · rename_i u rest hu
    rw [unitFrame_eq, orFault_ok] at h
    split at h
    · cases h; exact .footer u rest s hu
    · exact .frame u rest _ s t hu ‹_› h

theorem timerTimeout_effect {s t : State} (h : timerTimeout s = .next t) : MoveEffect .timeout s t := by
  unfold timerTimeout at h
  split at h
  · obtain ⟨k, hk, h⟩ := orFault_eq_next.1 h
    obtain ⟨-, rfl⟩ := readCurSlot_eq_ok.1 hk
    obtain ⟨x, hx, h⟩ := orFault_eq_next.1 h
    cases h
    exact .timesOut x s ‹_› (readSlot_eq_ok.1 hx)
  · cases h; exact .holds _ s

theorem runMove_effect {m : Move} {s t : State} (h : runMove m s = .next t) : MoveEffect m s t := by
  cases m with
  | caller c => exact callerStep_effect h
  | channel => exact commandStep_effect (p := .channel) h (by simp)
  | deliver => exact deliverStep_effect h
  | timer => exact commandStep_effect (p := .timer) h (by simp)
  | timeout => exact timerTimeout_effect h
  | reset => cases h; exact .resets s

/-- Whatever step leaves: nothing when no turn is scheduled, else what the next turn leaves. -/
theorem step_effect {s t : State} (h : step s = .next t) :
    s.config.wf = true ∧
      ((s.env.schedule = [] ∧ t = s) ∨ ∃ m rest, s.env.schedule = m :: rest ∧ MoveEffect m (takeTurn rest s) t) := by
  unfold step stepMachine at h
  split at h
  · refine ⟨‹_›, ?_⟩
    split at h
    · cases h; exact .inl ⟨‹_›, rfl⟩
    · exact .inr ⟨_, _, ‹_›, runMove_effect h⟩
  · cases h

end Sys2Proof.Machine
end

