-- ==== Sys2Proof/Tests/Slice0.lean ====
section
/-! SUPPORT. Tests. The expected bytes and values come from the spec's examples and vectors (spec/95_test_vectors.md; the id stands
in each comment), never from the model. After them, for each statement that has hypotheses, a state and operands that meet
them. -/

namespace Sys2Proof.Tests

open Sys2Proof Sys2Proof.Machine

/-! ## Well-formedness refuses -/

theorem test_wellFormed_exCreate_wrong_form :
    wellFormed defaultCatalog (.exCreate ⟨0, 0x9F, 0x9E, 0, 3⟩ (.word 1)) = false := by decide

theorem test_wellFormed_exCreate_long_operand (b : List Byte) (hb : 255 < b.length) :
    wellFormed defaultCatalog (.exCreate ⟨0, 0x47, 0, 0, 0⟩ (.bytes b)) = false := by
  have hf : catalogFamily defaultCatalog 0x47 = .osdName := by decide
  simp only [wellFormed, hf, operandFits]
  simp; omega

theorem test_wellFormed_announce_wrong_form :
    wellFormed defaultCatalog (.announce ⟨0, 0x8F, 0x90, 0, 1⟩ .none) = false := by decide

theorem test_wellFormed_announce_silent_operand :
    wellFormed defaultCatalog (.announce ⟨0, 0x8F, 0, 0, 0⟩ (.word 0)) = false := by decide

theorem test_wellFormed_codecSer_wrong_form :
    wellFormed defaultCatalog (.codecSer ⟨0, 0x84, 14, 0, 0⟩ (.bytes [0x10, 0x00])) = false := by decide

theorem test_wellFormed_codecDes_length : wellFormed defaultCatalog (.codecDes ⟨0, 0x9E, 0, 0, 2⟩ [0x05]) = false := by decide

theorem test_wellFormed_received_length : wellFormed defaultCatalog (.received ⟨0, 0, 0, 0, 0⟩ [0x9F]) = false := by decide

theorem test_wellFormed_long_frames :
    ([Instr.getCecVersion, .cecVersion, .givePhysicalAddr, .reportPhysicalAddr, .standby, .giveOsdName, .setOsdName,
      .giveDeviceVendorId, .deviceVendorId, .getMenuLanguage, .setMenuLanguage, .giveDevicePowerStatus, .reportPowerStatus,
      .userControlPressed, .userControlReleased, .otherOpcode 0x01].all fun f =>
        wellFormed defaultCatalog (f (List.replicate 14 0)) && !wellFormed defaultCatalog (f (List.replicate 15 0))) = true := by
  decide

theorem test_wellFormed_other_is_not_named : wellFormed defaultCatalog (.otherOpcode 0x9F []) = false := by decide

/-! ## Decoding: words written out from spec/30_encoding.md R155 to R160 and 95_test_vectors.md -/

/-- V-EX-5. -/
theorem test_decode_exCreate :
    decodeCommand defaultCatalog [0x10, 0x9F, 0x9E, 0x03] = .ok (.exCreate ⟨0, 0x9F, 0x9E, 0, 3⟩ .none, []) := by decide

/-- P2 step 2. -/
theorem test_decode_exchange :
    decodeCommand defaultCatalog [0x20, 0x00, 0x00, 0x10, 0x00, 0x00, 0x03, 0xE8] =
      .ok (.exchange ⟨0, 0, 0, 1, 0⟩ 1000, []) := by decide

/-- V-EX-8. -/
theorem test_decode_exRead : decodeCommand defaultCatalog [0x30, 0x00, 0x00, 0x30] = .ok (.exRead ⟨0, 0, 0, 3, 0⟩, []) := by
  decide

/-- V-RG-8 and V-RG-10: with RESPOND = 0 no operand follows. -/
theorem test_decode_announce :
    decodeCommand defaultCatalog [0x40, 0x8F, 0x90, 0x03, 0x00, 0x00, 0x00, 0x00] =
        .ok (.announce ⟨0, 0x8F, 0x90, 0, 3⟩ (.word 0), []) ∧
      decodeCommand defaultCatalog [0x40, 0x8F, 0x00, 0x00, 0x70] = .ok (.announce ⟨0, 0x8F, 0, 0, 0⟩ .none, [0x70]) := by
  decide

/-- V-RG-2. -/
theorem test_decode_revoke : decodeCommand defaultCatalog [0x50, 0x46, 0x00, 0x00] = .ok (.revoke ⟨0, 0x46, 0, 0, 0⟩, []) := by
  decide

/-- V-RG-1. -/
theorem test_decode_lookup : decodeCommand defaultCatalog [0x60, 0x46, 0x00, 0x00] = .ok (.lookup ⟨0, 0x46, 0, 0, 0⟩, []) := by
  decide

/-- V-ST-4. -/
theorem test_decode_statusRead :
    decodeCommand defaultCatalog [0x70, 0x00, 0x00, 0x01] = .ok (.statusRead ⟨0, 0, 0, 0, 1⟩, []) := by decide

/-- V-CS-6: 0x01 is RAW in the default catalog. -/
theorem test_decode_codecSer :
    decodeCommand defaultCatalog [0x80, 0x01, 0x0E, 0x00, 0x02, 0xAA, 0xBB] =
      .ok (.codecSer ⟨0, 0x01, 14, 0, 0⟩ (.bytes [0xAA, 0xBB]), []) := by decide

/-- V-CD-7. -/
theorem test_decode_codecDes :
    decodeCommand defaultCatalog [0x91, 0x9E, 0x00, 0x01, 0x05] = .ok (.codecDes ⟨1, 0x9E, 0, 0, 1⟩ [0x05], []) := by decide

/-- V-CO-2. -/
theorem test_decode_received :
    decodeCommand defaultCatalog [0xAF, 0x00, 0x00, 0x02, 0x9E, 0x05] = .ok (.received ⟨15, 0, 0, 0, 2⟩ [0x9E, 0x05], []) := by
  decide

/-- 43_adapter.md R323, R324: the four TX_DONE words. -/
theorem test_decode_txDone :
    decodeCommand defaultCatalog [0xB0, 0x00, 0x00, 0x00] = .ok (.txDoneXFail ⟨0, 0, 0, 0, 0⟩, []) ∧
      decodeCommand defaultCatalog [0xB0, 0x00, 0x00, 0x01] = .ok (.txDoneXOk ⟨0, 0, 0, 0, 0⟩, []) ∧
      decodeCommand defaultCatalog [0xB0, 0x00, 0x00, 0x02] = .ok (.txDoneAFail ⟨0, 0, 0, 0, 0⟩, []) ∧
      decodeCommand defaultCatalog [0xB0, 0x00, 0x00, 0x03] = .ok (.txDoneAOk ⟨0, 0, 0, 0, 0⟩, []) := by decide

/-- V-TM-1. -/
theorem test_decode_tick : decodeCommand defaultCatalog [0xC0, 0x00, 0x00, 0x00] = .ok (.tick ⟨0, 0, 0, 0, 0⟩, []) := by decide

/-- V-ST-5, V-ST-6 and 30_encoding.md R156: the four reserved OPs take no operand. -/
theorem test_decode_reserved :
    decodeCommand defaultCatalog [0x01, 0x23, 0x45, 0x67, 0x89] = .ok (.reserved0 ⟨1, 0x23, 0x45, 6, 7⟩, [0x89]) ∧
      decodeCommand defaultCatalog [0xD0, 0x00, 0x00, 0x00] = .ok (.reservedD ⟨0, 0, 0, 0, 0⟩, []) ∧
      decodeCommand defaultCatalog [0xE0, 0x00, 0x00, 0x00] = .ok (.reservedE ⟨0, 0, 0, 0, 0⟩, []) ∧
      decodeCommand defaultCatalog [0xF0, 0x00, 0x00, 0x00] = .ok (.reservedF ⟨0, 0, 0, 0, 0⟩, []) := by decide

/-- Bytes that make no whole command are refused by name. -/
theorem test_decode_short :
    decodeCommand defaultCatalog [0x70, 0x00, 0x00] = .error .shortHeader ∧
      decodeCommand defaultCatalog [0x20, 0x00, 0x00, 0x00, 0x00] = .error .shortOperand ∧
      decodeCommand defaultCatalog [0x40, 0x46, 0x47, 0x01, 0x07, 0x54] = .error .shortOperand := by decide

/-- The catalog's opcodes (30_encoding.md R153), with parameters where the vectors have them. -/
theorem test_decode_frames :
    decodeFrame [0x9F] = .ok (.getCecVersion []) ∧ decodeFrame [0x9E, 0x05] = .ok (.cecVersion [0x05]) ∧
      decodeFrame [0x83] = .ok (.givePhysicalAddr []) ∧ decodeFrame [0x84, 0x10, 0x00] = .ok (.reportPhysicalAddr [0x10, 0x00]) ∧
      decodeFrame [0x36] = .ok (.standby []) ∧ decodeFrame [0x46] = .ok (.giveOsdName []) ∧
      decodeFrame [0x47, 0x54, 0x56] = .ok (.setOsdName [0x54, 0x56]) ∧ decodeFrame [0x8C] = .ok (.giveDeviceVendorId []) ∧
      decodeFrame [0x87, 0x00, 0xE0, 0x91] = .ok (.deviceVendorId [0x00, 0xE0, 0x91]) ∧
      decodeFrame [0x91] = .ok (.getMenuLanguage []) ∧
      decodeFrame [0x32, 0x65, 0x6E, 0x67] = .ok (.setMenuLanguage [0x65, 0x6E, 0x67]) ∧
      decodeFrame [0x8F] = .ok (.giveDevicePowerStatus []) ∧ decodeFrame [0x90, 0x00] = .ok (.reportPowerStatus [0x00]) ∧
      decodeFrame [0x44, 0x41] = .ok (.userControlPressed [0x41]) ∧ decodeFrame [0x45] = .ok (.userControlReleased []) ∧
      decodeFrame [0x01, 0xAA] = .ok (.otherOpcode 0x01 [0xAA]) ∧ decodeFrame [] = .error .footer := by decide

/-! ## Codec vectors -/

/-- V-EM to V-RAW of section 2.1, Serialize. -/
theorem test_serialize :
    serialize .empty 0 = some [] ∧ serialize (.version 0x05) 14 = some [0x05] ∧ serialize (.version 0x05) 0 = none ∧
      serialize (.physAddr 0x1000) 14 = some [0x10, 0x00] ∧ serialize (.physAddr 0xFFFF) 2 = some [0xFF, 0xFF] ∧
      serialize (.physAddr 0x1234) 1 = none ∧ serialize (.vendorId 0x00E091) 14 = some [0x00, 0xE0, 0x91] ∧
      serialize (.language 0x65 0x6E 0x67) 2 = none ∧ serialize (.osdName []) 14 = none ∧
      serialize (.osdName [0x54, 0x68, 0x75]) 2 = none ∧
      serialize (.osdName (List.replicate 14 0x41)) 14 = some (List.replicate 14 0x41) ∧
      serialize (.uiKey 0x41) 0 = none ∧ serialize (.raw []) 0 = some [] := by decide

/-- V-EM to V-RAW of section 2.1, Deserialize. -/
theorem test_deserialize :
    deserialize .empty [] = .ok (some .empty) ∧ deserialize .empty [0x01] = .ok none ∧
      deserialize .version [0x05] = .ok (some (.version 0x05)) ∧ deserialize .version [0x05, 0x00] = .ok none ∧
      deserialize .physAddr [0x10, 0x00] = .ok (some (.physAddr 0x1000)) ∧ deserialize .physAddr [0x10, 0x00, 0x04] = .ok none ∧
      deserialize .vendorId [0x00, 0xE0, 0x91] = .ok (some (.vendorId 0x00E091)) ∧
      deserialize .language [0x65, 0x6E] = .ok none ∧ deserialize .osdName [] = .ok (some (.osdName [])) ∧
      deserialize .osdName (List.replicate 15 0x41) = .ok none ∧ deserialize .powerStatus [0x01] = .ok (some (.powerStatus 0x01)) ∧
      deserialize .uiKey [0x41, 0x00] = .ok none ∧ deserialize .raw [0x01, 0x02] = .ok (some (.raw [0x01, 0x02])) := by decide

/-! ## States of the vectors -/

/-- Slot 0 after V-EX-5. -/
def slot0 : Slot where
  life := .created
  reqOpc := 0x9F
  expValid := true
  expOpc := 0x9E
  ans := true
  dest := 0
  reqVal := .empty
  rplValid := false
  rplVal := .empty

/-- The request GET_CEC_VERSION from 4 to 0 (P1 step 2). -/
def versionRequest : TxReq := { init := 4, foll := 0, len := 1, data := Vector.mk (0x9F :: List.replicate 14 0).toArray rfl }

/-- A state with slot 0 holding x and the other slots as at reset. -/
def withSlot0 (x : Slot) (s : State) : State := { s with slots := [x, Slot.reset, Slot.reset, Slot.reset] }

/-- After P1 step 1. -/
def created : State := withSlot0 slot0 State.reset

/-- After P1 step 2 (the ARM example of 43_adapter.md R322). -/
def pending : State :=
  { withSlot0 { slot0 with life := .armed } State.reset with
    st := .pending
    curValid := true
    waitMs := 200
    txx := some versionRequest
    replySink := true
    ports := [{ phase := .txnWait, latch := { dest := 0, slot := 0, wait := 0 } }, CallerPort.reset] }

/-- After P1 step 4: the reply wait. -/
def waiting : State := { pending with txx := none, txXResult := .ok, timerRun := true }

/-- After P1 step 5: the reply 0x05 has come. -/
def resolved : State :=
  { withSlot0 { slot0 with life := .resolved, rplVal := .version 0x05, rplValid := true } pending with
    st := .resolved
    curValid := false
    txx := none
    txXResult := .ok }

/-- The value of V-RG-6. -/
def thunder : Value := .osdName [0x54, 0x68, 0x75, 0x6E, 0x64, 0x65, 0x72]

/-- REG[o] of s holds a handler that answers v with opcode r. -/
def withHandler (o : Byte) (bcast : Bool) (r : Byte) (v : Value) (s : State) : State :=
  { s with reg := s.reg.set o.toNat { valid := true, respond := true, bcast := bcast, rplOpc := r, val := v } o.isLt }

/-- One step in which port p presents bs and moves. -/
def issue (p : Port) (bs : List Byte) (s : State) : Step := step (scheduleNext (portMove p) (setPortBytes p bs s))

/-- One step in which the channel hands over the frame b from initiator i. -/
def deliver (i : LogicalAddr) (b : List Byte) (s : State) : Step :=
  step { s with env := { s.env with
    schedule := [.deliver]
    inbound := [{ init := i, len := BitVec.ofNat 4 b.length, data := spliceBytes zeroBuf 0 b }] } }

/-- One step in which agent m moves. -/
def turn (m : Move) (s : State) : Step := step (scheduleNext m s)

/-- The step answered a next state, with exactly these response bytes, that satisfies f. -/
def gives (o : Step) (responses : List (List Byte)) (f : State → Bool) : Bool :=
  match o with
  | .next t => (t.outputs.map fun x => responseBytes x.resp) == responses && f t
  | .fault _ => false
  | .refused _ => false

/-! ## One step of each instruction -/

/-- V-EX-5. -/
theorem test_exCreate :
    gives (issue (.caller 0) [0x10, 0x9F, 0x9E, 0x03] State.reset) [[0, 0, 0, 0]]
      (fun t => t.slots == [slot0, Slot.reset, Slot.reset, Slot.reset]) = true := by decide

/-- V-EX-4: a name longer than OSD_NAME_MAX. -/
theorem test_exCreate_bad_value :
    gives (issue (.caller 0) ([0x10, 0x47, 0x00, 0x00, 0x0F] ++ List.replicate 15 0x41) State.reset) [[0x0C, 0, 0, 0]]
      (fun t => t.slots == State.reset.slots) = true := by decide

/-- P1 step 2. -/
theorem test_exchange_arms :
    gives (issue (.caller 0) [0x20, 0, 0, 0, 0, 0, 0, 0xC8] created) []
      (fun t => t.st == .pending && t.waitMs == 200 && t.txx == some versionRequest && t.slots == pending.slots &&
        t.ports == pending.ports) = true := by decide

/-- P7b step 4: under BLOCK the second port waits for admission. -/
theorem test_exchange_waits :
    gives (issue (.caller 1) [0x20, 0, 0, 0x10, 0, 0, 0, 0] pending) []
      (fun t => t.ports[1]? == some { phase := .admitWait, latch := { dest := 0, slot := 1, wait := 0 } } && t.curSlot == 0) =
        true := by decide

/-- V-EX-6. -/
theorem test_exRead : gives (issue (.caller 0) [0x30, 0, 0, 0] created) [[0x00, 0x9F, 0x9E, 0x31]] (fun _ => true) = true := by
  decide

/-- R291 of 42_exchange.md in the state after P1 step 5: LIFE = 3 and the reply 0x05. -/
theorem test_exRead_reply :
    gives (issue (.caller 1) [0x30, 0, 0, 0] resolved) [[0x00, 0x9F, 0x9E, 0x73, 0, 0, 0, 0x05]] (fun _ => true) = true := by
  decide

/-- V-RG-6. -/
theorem test_announce :
    gives (issue (.caller 0) [0x40, 0x46, 0x47, 0x01, 0x07, 0x54, 0x68, 0x75, 0x6E, 0x64, 0x65, 0x72] State.reset) [[0, 0, 0, 0]]
      (fun t => readReg 0x46 t == ⟨true, true, false, 0x47, thunder⟩) = true := by decide

/-- V-RG-10. -/
theorem test_announce_conflict :
    gives (issue (.caller 0) [0x40, 0x8F, 0x00, 0x00] (withHandler 0x8F true 0x90 (.powerStatus 0) State.reset)) [[0x05, 0, 0, 0]]
      (fun t => t.regConflict && readReg 0x8F t == ⟨true, true, true, 0x90, .powerStatus 0⟩) = true := by decide

/-- P6 step 6: VAL is free, the other fields are 0. -/
theorem test_revoke :
    gives (issue (.caller 0) [0x50, 0x9F, 0x00, 0x00] (withHandler 0x9F false 0x9E (.version 5) State.reset)) [[0, 0, 0, 0]]
      (fun t => !(readReg 0x9F t).valid && !(readReg 0x9F t).respond && (readReg 0x9F t).rplOpc == 0) = true := by decide

/-- V-RG-2. -/
theorem test_revoke_not_found :
    gives (issue (.caller 0) [0x50, 0x46, 0x00, 0x00] State.reset) [[0x06, 0, 0, 0]] (fun _ => true) = true := by decide

/-- V-RG-7. -/
theorem test_lookup :
    gives (issue (.caller 0) [0x60, 0x46, 0x00, 0x00] (withHandler 0x46 false 0x47 thunder State.reset))
      [[0x00, 0x46, 0x47, 0x01, 0x07, 0x54, 0x68, 0x75, 0x6E, 0x64, 0x65, 0x72]] (fun _ => true) = true := by decide

/-- V-RG-1. -/
theorem test_lookup_not_found :
    gives (issue (.caller 0) [0x60, 0x46, 0x00, 0x00] State.reset) [[0x06, 0, 0, 0]] (fun _ => true) = true := by decide

/-- V-ST-3. -/
theorem test_statusRead :
    gives (issue (.caller 1) [0x70, 0, 0, 0] waiting) [[0x00, 0x02, 0xE0, 0x09]] (fun _ => true) = true := by decide

/-- P8 step 4: the failed transaction of slot 3. -/
theorem test_statusRead_failed :
    gives (issue (.caller 1) [0x70, 0, 0, 0]
        { pending with st := .failed, curValid := false, curSlot := 3, txx := none, txXResult := .fail })
      [[0x00, 0x04, 0xC3, 0x04]] (fun _ => true) = true := by decide

/-- V-CS-1. -/
theorem test_codecSer :
    gives (issue (.caller 0) [0x80, 0x84, 0x0E, 0x00, 0x00, 0x00, 0x10, 0x00] State.reset) [[0x00, 0x00, 0x02, 0x01, 0x10, 0x00]]
      (fun _ => true) = true := by decide

/-- V-CS-4: an empty name is not written. -/
theorem test_codecSer_nothing :
    gives (issue (.caller 0) [0x80, 0x47, 0x0E, 0x00, 0x00] State.reset) [[0, 0, 0, 0]] (fun _ => true) = true := by decide

/-- V-CD-6. -/
theorem test_codecDes :
    gives (issue (.caller 0) [0x90, 0x32, 0x00, 0x03, 0x65, 0x6E, 0x67] State.reset)
      [[0x00, 0x00, 0x00, 0x04, 0x03, 0x65, 0x6E, 0x67]]
      (fun t => t.cscr == { valid := true, fam := .language, val := .language 0x65 0x6E 0x67 }) = true := by decide

/-- V-CD-4: a variable length above 14. -/
theorem test_codecDes_malformed :
    gives (issue (.caller 0) ([0x90, 0x47, 0x00, 0x0F] ++ List.replicate 15 0x41) State.reset) [[0x08, 0, 0, 0]]
      (fun t => t.cscr == State.reset.cscr) = true := by decide

/-- V-CO-1. -/
theorem test_received_reply :
    gives (issue .channel [0xA0, 0x00, 0x00, 0x02, 0x9E, 0x05] waiting) [[0, 0, 0, 2]]
      (fun t => t.st == .resolved && !t.timerRun && t.slots == resolved.slots) = true := by decide

/-- V-CO-3: initiator 5 does not correlate. -/
theorem test_received_noise :
    gives (issue .channel [0xA5, 0x00, 0x00, 0x02, 0x9E, 0x05] waiting) [[0, 0, 0, 2]]
      (fun t => t.st == .pending && t.slots == waiting.slots && t.txa == []) = true := by decide

/-- P8 step 3. -/
theorem test_txDoneXFail :
    gives (issue .channel [0xB0, 0, 0, 0] pending) []
      (fun t => t.st == .failed && !t.curValid && t.txx == none && t.txXResult == .fail && t.slots == pending.slots) = true := by
  decide

/-- P1 step 4. -/
theorem test_txDoneXOk :
    gives (issue .channel [0xB0, 0, 0, 1] pending) []
      (fun t => t.st == .pending && t.timerRun && t.txx == none && t.txXResult == .ok) = true := by decide

/-- P3 step 4: a fire-and-forget exchange ends here. -/
theorem test_txDoneXOk_fire_and_forget :
    gives (issue .channel [0xB0, 0, 0, 1] (withSlot0 { slot0 with life := .armed, ans := false } pending)) []
      (fun t => t.st == .resolved && !t.timerRun && (t.slots[0]?.map Slot.life) == some .resolved) = true := by decide

/-- P4 step 4, variant: the head goes, whatever the result; the second request stays. -/
theorem test_txDoneA :
    gives (issue .channel [0xB0, 0, 0, 2] { State.reset with txa := [versionRequest, { versionRequest with foll := 3 }] }) []
        (fun t => t.txa == [{ versionRequest with foll := 3 }]) = true ∧
      gives (issue .channel [0xB0, 0, 0, 3] { State.reset with txa := [versionRequest] }) [] (fun t => t.txa == []) = true := by
  decide

/-- V-TM-3. -/
theorem test_tick :
    gives (issue .timer [0xC0, 0, 0, 0] { waiting with elapsed := 2, waitMs := 3 }) []
      (fun t => t.elapsed == 3 && timeoutEnabled t) = true := by decide

/-- V-TM-4. -/
theorem test_tick_saturates :
    gives (issue .timer [0xC0, 0, 0, 0] { waiting with elapsed := 3, waitMs := 3 }) [] (fun t => t.elapsed == 3) = true := by decide

/-- V-ST-5, V-ST-6 and 44_status.md R391. -/
theorem test_reserved :
    ([[0x00, 0, 0, 0], [0xD0, 0, 0, 0], [0xE0, 0, 0, 0], [0xF0, 0, 0, 0]].all fun bs =>
      gives (issue (.caller 0) bs State.reset) [[0x0A, 0, 0, 0]] (fun _ => true)) = true := by decide

/-- V-ST-7: RECEIVED on a caller port. -/
theorem test_wrong_port : gives (issue (.caller 0) [0xA0, 0, 0, 0] State.reset) [[0x0A, 0, 0, 0]] (fun _ => true) = true := by
  decide

/-! ## Frames delivered by the channel -/

/-- 43_adapter.md R330: with an empty registry every frame of the catalog is ignored and consumed whole. -/
theorem test_frames_ignored :
    ([0x9F, 0x9E, 0x83, 0x84, 0x36, 0x46, 0x47, 0x8C, 0x87, 0x91, 0x32, 0x8F, 0x90, 0x44, 0x45, 0x01].all fun o =>
      gives (deliver 0 [o, 0x10] State.reset) [[0, 0, 0, 2]] (fun t => t.txa == [])) = true := by decide

/-- V-CO-1 as a frame. -/
theorem test_cecVersion_resolves :
    gives (deliver 0 [0x9E, 0x05] waiting) [[0, 0, 0, 2]] (fun t => t.st == .resolved && t.slots == resolved.slots) = true := by
  decide

/-- V-RG-9: the broadcast policy. -/
theorem test_giveDevicePowerStatus_answered :
    gives (deliver 0 [0x8F] (withHandler 0x8F true 0x90 (.powerStatus 0) State.reset)) [[0, 0, 0, 1]]
      (fun t => t.txa == [{ init := 4, foll := 15, len := 2, data := spliceBytes zeroBuf 0 [0x90, 0x00] }]) = true := by decide

/-- P4 step 2: SET_OSD_NAME goes back to the initiator. -/
theorem test_giveOsdName_answered :
    gives (deliver 0 [0x46] (withHandler 0x46 false 0x47 thunder State.reset)) [[0, 0, 0, 1]]
      (fun t => t.txa ==
        [{ init := 4, foll := 0, len := 8, data := spliceBytes zeroBuf 0 [0x47, 0x54, 0x68, 0x75, 0x6E, 0x64, 0x65, 0x72] }]) =
          true := by decide

/-- V-CO-7: a footer has no effect. -/
theorem test_footer : gives (deliver 0 [] waiting) [[0, 0, 0, 0]] (fun t => t.st == .pending) = true := by decide

/-! ## Internal steps -/

/-- V-RC-1. -/
theorem test_return :
    gives (turn (.caller 0) resolved) [[0, 0, 0, 1, 0, 0, 0, 0x05]]
      (fun t => t.st == .idle && !t.replySink && t.txXResult == .notYet && (t.slots[0]?.map Slot.life) == some .released &&
        t.ports == State.reset.ports) = true := by decide

/-- V-RC-5. -/
theorem test_return_unavailable :
    gives (turn (.caller 0) { resolved with txXResult := .fail }) [[0x01, 0, 0, 1, 0, 0, 0, 0x05]] (fun t => t.st == .idle) =
      true := by decide

/-- P5 step 7. -/
theorem test_timeout :
    gives (turn .timeout { waiting with elapsed := 3, waitMs := 3 }) []
      (fun t => t.st == .timedOut && !t.timerRun && !t.curValid && (t.slots[0]?.map Slot.life) == some .timedOut) = true := by
  decide

/-- P7b: ADMIT arms the latched exchange. -/
theorem test_admit :
    gives (turn (.caller 1)
        { created with
          ports := [CallerPort.reset, { phase := .admitWait, latch := { dest := 0, slot := 0, wait := 200 } }] }) []
      (fun t => t.st == .pending && t.owner == 1 && t.txx == some versionRequest) = true := by decide

/-- R465: a reset frees the waiting port with no response, and the channel's commands of before are gone; a TX_DONE it presents
after the reset is there to be taken. -/
theorem test_reset_channel :
    gives (turn .reset
        { pending with env := { pending.env with channelIn := [0xB0, 0, 0, 0], channelLater := [[0xB0, 0, 0, 1], []] } }) []
      (fun t => t.env.channelIn == [0xB0, 0, 0, 1] && t.env.channelLater == [[]] && t.txx == none &&
        t.ports == [CallerPort.reset, CallerPort.reset]) = true := by decide

/-- R104: offsets past the buffer, past LEN of the frame in use, and outside the parameter region. -/
theorem test_frame_bounds :
    memRead zeroBuf 15 14 2 = .error .bufferIndex ∧ memRead zeroBuf 2 1 2 = .error .paramRegion ∧
      memWrite zeroBuf 2 1 [0] = .ok zeroBuf ∧ paramWrite zeroBuf 2 0 [0] = .error .paramRegion ∧
      paramRead [0x10] 0 2 = .error .paramRegion ∧ decValue .language [0x65, 0x6E] = .error .paramRegion := by decide

/-- A table word is placed where the next step takes it (log 17): V-ST-1 and V-ST-5. -/
theorem test_withFetchWord :
    gives (step (State.reset.withFetchWord 32 0x70000000)) [[0x00, 0x00, 0x80, 0x00]] (fun _ => true) = true ∧
      gives (step (State.reset.withFetchWord 32 0x00000000)) [[0x0A, 0, 0, 0]] (fun _ => true) = true ∧
      gives (step (State.reset.withFetchWord 8 0x9F)) [[0, 0, 0, 1]] (fun _ => true) = true := by decide

/-! ## Witnesses: the hypotheses of each statement can be met, for each clause, at its boundary -/

/-- The header with these fields and nothing else. -/
def hdr (opc opc2 : Byte) (slot flg : BitVec 4) : Header := { la := 0, opc := opc, opc2 := opc2, slot := slot, flg := flg }

/-- The step in progress takes its command from p. -/
def issuedBy (p : Port) (s : State) : State := { s with issuer := p }

/-- The next turns and the bytes and units the environment presents. -/
def presenting (ms : List Move) (bs : List Byte) (s : State) : State :=
  { s with env :=
    { schedule := ms
      callerIn := [bs, bs]
      channelIn := bs
      channelLater := [bs]
      timerIn := bs
      inbound := [{ init := 0, len := 2, data := spliceBytes zeroBuf 0 [0x9E, 0x05] }] } }

/-- The TX_DONE words with no reserved field set. -/
def noRest : TxDoneRest := { la := 0, opc := 0, opc2 := 0, slot := 0, flgHi := 0 }

theorem reset_inv : State.reset.Inv := by
  have hreg : ∀ o, readReg o State.reset = RegEntry.reset := by
    intro o; simp [readReg, State.reset, State.resetOf]
  have hslot : ∀ (k : Nat) (x : Slot), State.reset.slots[k]? = some x → x = Slot.reset := by
    intro k x h
    simp only [State.reset, State.resetOf, List.getElem?_replicate] at h
    split at h <;> simp at h
    exact h.symm
  have hport : ∀ (k : Nat) (q : CallerPort), State.reset.ports[k]? = some q → q = CallerPort.reset := by
    intro k q h
    simp only [State.reset, State.resetOf, List.getElem?_replicate] at h
    split at h <;> simp at h
    exact h.symm
  constructor
  case slots => intro k x hx; cases hslot k x hx; constructor <;> simp [Slot.reset, Life.inTransaction, State.reset, State.resetOf]
  case ports => intro k q hq; cases hport k q hq; constructor <;> simp [CallerPort.reset, State.reset, State.resetOf]
  case reg => intro o; rw [hreg]; constructor <;> simp [RegEntry.reset]
  case config => decide
  all_goals simp [State.reset, State.resetOf, TxResultSound, Config.standard]

theorem created_inv : created.Inv :=
  createSlot_keeps_inv (k := 0) (x := Slot.reset) (hd := hdr 0x9F 0x9E 0 3) (v := .empty) reset_inv (by decide) (by decide)
    ⟨by decide, by decide⟩

theorem versionRequest_sound : TxReqSound Config.standard versionRequest := by
  refine ⟨by decide, by decide, ?_⟩
  decide

theorem pending_inv : pending.Inv :=
  armed_keeps_inv (c := 0) (d := 0) (k := 0) (w := 200) (x := slot0) (r := versionRequest) created_inv (by decide) (by decide)
    (by decide) (by decide) versionRequest_sound (by decide)

theorem waiting_inv : waiting.Inv := by
  obtain ⟨t, ht, hi⟩ := txDoneX_keeps_inv pending_inv true
  have h : txDoneX true pending = .next waiting := rfl
  rw [h] at ht
  cases ht
  exact hi

theorem resolved_inv : resolved.Inv := by
  obtain ⟨t, ht, hi⟩ := receive_keeps_inv waiting_inv .channel 0 [0x9E, 0x05]
  have h : receive .channel 0 [0x9E, 0x05] waiting =
      .next { resolved with outputs := [⟨.channel, ⟨.none, 2, []⟩⟩] } := rfl
  rw [h] at ht
  cases ht
  exact own_fields_keep_inv hi false (.caller 0) 0 0 (Env.quiet Config.standard) []

/-! ### Encoding and codec -/

/-- The longest frame operand, no operand, and an operand of 255 bytes. -/
theorem witness_WrittenWordsDecode :
    decodeFrame [0x45] = .ok (.userControlReleased []) ∧ decodeFrame [0x00, 0x01] = .ok (.otherOpcode 0x00 [0x01]) ∧
      (0x00 : Byte) ∉ [0x9F, 0x9E, 0x83, 0x84, 0x36, 0x46, 0x47, 0x8C, 0x87, 0x91, 0x32, 0x8F, 0x90, 0x44, 0x45] := by decide

theorem witness_HeaderFieldsAreNibbles :
    decodeCommand defaultCatalog [0x00, 0, 0, 0] = .ok (.reserved0 (hdr 0 0 0 0), []) ∧
      decodeCommand defaultCatalog [0xFF, 0xFF, 0xFF, 0xFF] = .ok (.reservedF ⟨15, 0xFF, 0xFF, 15, 15⟩, []) := by decide

theorem witness_ResponseLayout : ([] : List Byte).length ≤ 255 ∧ (List.replicate 255 (0 : Byte)).length ≤ 255 :=
  ⟨by decide, (List.length_replicate ..).le⟩

theorem witness_CommandDecodeEncode :
    (wellFormed defaultCatalog (.codecDes (hdr 0x47 0 0 15) (List.replicate 15 0x41)) = true ∧
      (Instr.codecDes (hdr 0x47 0 0 15) (List.replicate 15 0x41)).isCommand = true) ∧
    (wellFormed defaultCatalog (.exCreate (hdr 0x9F 0x9E 15 3) .none) = true ∧
      (Instr.exCreate (hdr 0x9F 0x9E 15 3) .none).isCommand = true) ∧
    ∀ b : List Byte, b.length = 255 → wellFormed defaultCatalog (.announce (hdr 0x46 0x47 0 1) (.bytes b)) = true := by
  refine ⟨by decide, by decide, fun b hb => ?_⟩
  have hf : catalogFamily defaultCatalog 0x47 = .osdName := by decide
  change operandFits (catalogFamily defaultCatalog 0x47) (.bytes b) = true
  rw [hf]
  simp [operandFits, hb]

theorem witness_CommandEncodeDecode :
    decodeCommand defaultCatalog [0x80, 0x84, 0x0E, 0x00, 0x00, 0x00, 0x10, 0x00, 0x70] =
      .ok (.codecSer (hdr 0x84 14 0 0) (.word 0x1000), [0x70]) := by decide

theorem witness_FrameDecodeEncode :
    wellFormed defaultCatalog (.setOsdName (List.replicate 14 0x41)) = true ∧
      (Instr.setOsdName (List.replicate 14 0x41)).isCommand = false := by decide

/-- Lengths 0, 1, 15 and 16. -/
theorem witness_FrameBytesDecode :
    ([] : List Byte).length = 0 ∧ 1 ≤ [(0x36 : Byte)].length ∧ (List.replicate 15 (0x36 : Byte)).length ≤ 15 ∧
      15 < (List.replicate 16 (0x36 : Byte)).length := by decide

theorem witness_NumericDecoders : ([] : List Byte).length ≠ 1 ∧ [(0 : Byte)].length ≠ 2 ∧ [(0 : Byte), 0].length ≠ 3 := by
  decide

/-- A name of 14 bytes is written; the empty name and one of 15 bytes are not. -/
theorem witness_CodecRoundTrip :
    (Value.osdName (List.replicate 14 0x41)).legal 14 = true ∧ (serialize (.osdName (List.replicate 14 0x41)) 14).isSome = true ∧
      (Value.osdName []).legal 14 = true ∧ serialize (.osdName []) 14 = none ∧
      (Value.osdName (List.replicate 15 0x41)).legal 255 = true ∧ serialize (.osdName (List.replicate 15 0x41)) 14 = none := by
  decide

theorem witness_CodecLengths : (serialize (.vendorId 0) 3).isSome = true ∧ (serialize (.raw (List.replicate 14 0)) 255).isSome = true := by
  decide

theorem witness_CodecSerResult :
    State.reset.issuer = .caller 0 ∧ (hdr 0x84 14 1 0).slot ≠ 0 ∧ (hdr 0x84 14 0 15).flg ≠ 0 ∧
      operandValue 14 (State.reset.config.family 0x84) (.word 0x10000) = none ∧
      operandValue 14 (State.reset.config.family 0x84) (.word 0xFFFF) = some (.physAddr 0xFFFF) := by decide

theorem witness_CodecDesResult :
    State.reset.issuer = .caller 0 ∧ (hdr 0x9E 1 0 1).opc2 ≠ 0 ∧ deserialize (State.reset.config.family 0x9E) [] = .ok none ∧
      deserialize (State.reset.config.family 0x47) (List.replicate 15 0) = .ok none ∧
      deserialize (State.reset.config.family 0x9E) [0xFF] = .ok (some (.version 0xFF)) := by decide

/-! ### Registry -/

theorem witness_AnnounceResult :
    State.reset.issuer = .caller 0 ∧ (hdr 0x46 0x99 0 0).flg.getLsbD 0 = false ∧ (hdr 0x46 0x99 0 0).opc2 ≠ 0 ∧
      (hdr 0x46 0 0 2).flg.getLsbD 1 = true ∧ (hdr 0x46 0x47 0 4).flg.extractLsb' 2 2 ≠ 0 ∧
      operandValue 14 (State.reset.config.family 0x47) (.bytes (List.replicate 15 0x41)) = none ∧
      operandValue 14 (State.reset.config.family 0x47) (.bytes []) = some (.osdName []) ∧
      AnnounceFits Config.standard (hdr 0xFF 0x47 0 3) (.bytes []) ∧ AnnounceFits Config.standard (hdr 0x00 0 0 0) .none ∧
      (readReg 0x00 State.reset).valid = false ∧
      (readReg 0xFF (withHandler 0xFF false 0x47 thunder State.reset)).valid = true := by
  unfold AnnounceFits
  decide

theorem witness_RevokeResult :
    State.reset.issuer = .caller 0 ∧ (hdr 0x46 0 0 1).flg ≠ 0 ∧ (readReg 0x46 State.reset).valid = false ∧
      (readReg 0x46 (withHandler 0x46 false 0x47 thunder State.reset)).valid = true := by decide

theorem witness_LookupResult :
    State.reset.issuer = .caller 0 ∧ (hdr 0x46 0 1 0).slot ≠ 0 ∧ (readReg 0x46 State.reset).valid = false ∧
      (readReg 0x46 (withHandler 0x46 false 0x47 thunder State.reset)).valid = true := by decide

theorem witness_RegistryUniqueness :
    State.reset.issuer = .caller 0 ∧ (readReg 0x9F State.reset).valid = false ∧
      AnnounceFits Config.standard (hdr 0x9F 0x9E 0 1) (.word 5) ∧ AnnounceFits Config.standard (hdr 0x9F 0 0 0) .none := by
  unfold AnnounceFits
  decide

theorem witness_RegistryWriters :
    (∃ t, exec (.announce (hdr 0x46 0 0 0) .none) State.reset = .next t ∧ readReg 0x46 t ≠ readReg 0x46 State.reset) ∧
      ∃ t, exec (.revoke (hdr 0x46 0 0 0)) (withHandler 0x46 false 0x47 thunder State.reset) = .next t ∧
        readReg 0x46 t ≠ readReg 0x46 (withHandler 0x46 false 0x47 thunder State.reset) := by
  refine ⟨⟨_, rfl, fun h => ?_⟩, ⟨_, rfl, fun h => ?_⟩⟩
  · exact absurd (congrArg RegEntry.valid h) (by decide)
  · exact absurd (congrArg RegEntry.valid h) (by decide)

theorem witness_RegConflictSticky :
    (∃ t, exec (.announce (hdr 0x46 0 0 0) .none) (withHandler 0x46 false 0x47 thunder State.reset) = .next t ∧
        t.outputs = [⟨.caller 0, ⟨.alreadyRegistered, 0, []⟩⟩] ∧ t.regConflict ≠ State.reset.regConflict) ∧
      ∃ t, step (presenting [.timeout] [] { State.reset with regConflict := true }) = .next t :=
  ⟨⟨_, rfl, rfl, by decide⟩, ⟨_, rfl⟩⟩

/-! ### Exchanges -/

/-- The last slot and the first number past it; a slot in each life. -/
theorem witness_ExCreateResult :
    created.issuer = .caller 0 ∧ created.slots.length = created.config.nx ∧ (hdr 0x36 0x99 0 0).opc2 ≠ 0 ∧
      (hdr 0x36 0 0 4).flg.extractLsb' 2 2 ≠ 0 ∧ created.config.nx ≤ (hdr 0x36 0 4 0).slot.toNat ∧
      created.slots[(hdr 0x36 0 3 0).slot.toNat]? = some Slot.reset ∧ Slot.reset.life = .released ∧
      created.slots[(hdr 0x36 0 0 0).slot.toNat]? = some slot0 ∧ slot0.life = .created ∧
      (pending.slots[0]?.map Slot.life) = some .armed ∧ (resolved.slots[0]?.map Slot.life) = some .resolved ∧
      operandValue 14 (created.config.family 0x36) .none = some .empty ∧
      operandValue 14 (created.config.family 0x47) (.bytes (List.replicate 15 0)) = none := by decide

theorem witness_ExReadResult :
    created.issuer = .caller 0 ∧ created.slots.length = created.config.nx ∧ (hdr 0 0 0 1).flg ≠ 0 ∧
      created.config.nx ≤ (hdr 0 0 4 0).slot.toNat ∧ created.slots[(hdr 0 0 3 0).slot.toNat]? = some Slot.reset := by decide

theorem witness_PrepareResult :
    slot0.life ≠ .released ∧ serialize slot0.reqVal 14 = some [] ∧ serialize (.osdName (List.replicate 14 0x41)) 14 ≠ none ∧
      serialize (.osdName []) 14 = none := by decide

theorem witness_CompleteResult :
    Slot.reset.expValid = false ∧ slot0.expValid = true ∧ (0x9F : Byte) ≠ slot0.expOpc ∧ 0x9E = slot0.expOpc ∧
      deserialize (Config.standard.family slot0.expOpc) [] = .ok none ∧
      deserialize (Config.standard.family slot0.expOpc) [0x05] = .ok (some (.version 0x05)) := by decide

theorem witness_ExchangeIssue :
    created.issuer = .caller 0 ∧ (hdr 0 0 0 1).flg ≠ 0 ∧ created.config.nx ≤ (hdr 0 0 4 0).slot.toNat ∧
      (hdr 0 0 3 0).slot.toNat < created.config.nx ∧ created.st = .idle ∧ pending.st ≠ .idle ∧
      pending.config.busyPolicy = .block ∧
      ({ pending with config := { Config.standard with busyPolicy := .failFast } } : State).config.busyPolicy = .failFast := by
  decide

theorem witness_ArmResult :
    created.slots[(3 : BitVec 4).toNat]? = some Slot.reset ∧ Slot.reset.life ≠ .created ∧
      created.slots[(0 : BitVec 4).toNat]? = some slot0 ∧ slot0.life = .created ∧ serialize slot0.reqVal 14 = some [] ∧
      ({ slot0 with reqOpc := 0x47, reqVal := .osdName [] } : Slot).life = .created ∧ serialize (.osdName []) 14 = none ∧
      ({ phase := .admitWait, latch := { dest := 0, slot := 0, wait := 0 } } : CallerPort).phase = .admitWait := by decide

theorem witness_ExchangeArms :
    created.issuer = .caller 0 ∧ created.st = .idle ∧ (0 : BitVec 4).toNat < created.config.nx ∧
      created.slots[(0 : BitVec 4).toNat]? = some slot0 ∧ slot0.life = .created ∧ serialize slot0.reqVal 14 = some [] := by decide

/-! ### The adapter -/

theorem witness_TxDoneXResult :
    (issuedBy .channel pending).issuer = .channel ∧ pending.txx ≠ none ∧ pending.timerRun = false ∧
      pending.slots[pending.curSlot.toNat]? = some { slot0 with life := .armed } ∧ pending.st = .pending ∧ slot0.ans = true ∧
      ({ slot0 with ans := false } : Slot).ans = false ∧
      ({ pending with st := .resolved, curValid := false } : State).st = .resolved := by decide

theorem witness_TxDoneAResult :
    (issuedBy .channel { State.reset with txa := [versionRequest] }).issuer = .channel ∧ noRest.flgHi = 0 ∧
      ({ State.reset with txa := [versionRequest] } : State).txa = versionRequest :: [] := by decide

/-- From the destination and from 15, and for each reason to keep waiting that a frame can give. -/
theorem witness_ReceivedResult :
    (issuedBy .channel waiting).issuer = .channel ∧ (hdr 0x01 0 0 1).opc ≠ 0 ∧ (hdr 0 0 0 2).opc = 0 ∧ (hdr 0 0 0 2).slot = 0 ∧
    (List.replicate 15 (0x36 : Byte)).length ≤ 15 ∧
    (∃ x, Resolves waiting 0 0x9E [0x05] x (.version 0x05) ∧ Resolves waiting 15 0x9E [0x05] x (.version 0x05) ∧
      KeepsWaiting waiting 5 0x9E [0x05] x ∧ KeepsWaiting waiting 0 0x9F [] x ∧ KeepsWaiting waiting 0 0x9E [] x) ∧
    resolved.st ≠ .pending ∧ inbound 5 0x9E waiting = .ok waiting := by
  unfold Resolves KeepsWaiting
  refine ⟨rfl, by decide, rfl, rfl, by decide, ⟨{ slot0 with life := .armed }, ?_⟩, by decide, rfl⟩
  decide

theorem witness_FrameRunsAsReceived :
    (Instr.standby (List.replicate 14 0)).isCommand = false ∧ (issuedBy .channel waiting).issuer = .channel := by decide

theorem witness_InboundResult :
    (readReg 0x46 State.reset).valid = false ∧
      (readReg 0x46 (withHandler 0x46 false 0x47 thunder State.reset)).valid = true ∧
      (readReg 0x46 (withHandler 0x46 false 0x47 thunder State.reset)).respond = true ∧ (serialize thunder 14).isSome = true ∧
      serialize (.osdName []) 14 = none ∧ State.reset.txa.length ≠ State.reset.config.txaDepth ∧
      ({ State.reset with txa := [versionRequest, versionRequest] } : State).txa.length = State.reset.config.txaDepth := by decide

theorem witness_ConsumedLength :
    State.reset.Inv ∧ Receives (.standby []) State.reset 0 [0x36] ∧ State.Inv (issuedBy .channel waiting) ∧
      Receives (.received (hdr 0 0 0 15) (List.replicate 15 0x36)) (issuedBy .channel waiting) 0 (List.replicate 15 0x36) :=
  ⟨reset_inv, .inr ⟨rfl, rfl, rfl⟩, own_fields_keep_inv waiting_inv false .channel 0 0 _ _, .inl ⟨_, rfl, rfl, rfl, rfl, rfl, rfl⟩⟩

theorem witness_InboundIndependence :
    inbound 0 0x46 State.reset = .ok State.reset ∧ State.reset.reg = created.reg ∧ State.reset.txa = created.txa ∧
      State.reset.config = created.config := ⟨rfl, rfl, rfl, rfl⟩

/-- One below the wait, and at it. -/
theorem witness_TickResult :
    (issuedBy .timer waiting).issuer = .timer ∧ waiting.timerRun = true ∧ waiting.st = .pending ∧
      waiting.elapsed.toNat < waiting.waitMs.toNat ∧
      ¬ ({ waiting with elapsed := 200 } : State).elapsed.toNat < waiting.waitMs.toNat := by decide

theorem witness_TimeoutAfterWait : waiting.Inv ∧ waiting.st = .pending ∧ waiting.timerRun = true :=
  ⟨waiting_inv, rfl, rfl⟩

theorem witness_TimeoutResult :
    waiting.slots[waiting.curSlot.toNat]? = some { slot0 with life := .armed } ∧ waiting.st = .pending ∧ waiting.timerRun = true ∧
      ({ waiting with elapsed := 200 } : State).waitMs.toNat ≤ ({ waiting with elapsed := 200 } : State).elapsed.toNat ∧
      ({ waiting with elapsed := 199 } : State).elapsed.toNat < waiting.waitMs.toNat ∧ pending.timerRun = false ∧
      resolved.st ≠ .pending := by decide

theorem witness_CombineAtReturn :
    resolved.Inv ∧ returnEnabled 0 resolved = .ok true ∧ ∃ x, resolved.slots[resolved.curSlot.toNat]? = some x :=
  ⟨resolved_inv, by decide, _, rfl⟩

theorem witness_ReturnResult :
    (resolved.ports[0]?.map CallerPort.phase) = some .txnWait ∧ resolved.owner = 0 ∧ resolved.st = .resolved ∧
      resolved.txx = none ∧ (resolved.slots[resolved.curSlot.toNat]?).isSome = true ∧
      combine resolved.txXResult resolved.st = some .none ∧ combine .fail .failed = some .unavailable ∧
      combine .ok .timedOut = some .timedOut ∧ pending.st = .pending ∧ pending.txx ≠ none := by decide

/-! ### Status, refusals, errors -/

theorem witness_StatusReadResult : State.reset.issuer = .caller 0 ∧ (hdr 0 0 0 1).flg ≠ 0 := by decide

/-- One reserved field of each command, and a command on each port that does not carry it. -/
theorem witness_RefusedCommands :
    BreaksReserved (.exCreate (hdr 0x36 0x99 0 0) .none) ∧ BreaksReserved (.exchange (hdr 0 0 0 1) 10) ∧
      BreaksReserved (.exRead (hdr 0 0 0 1)) ∧ BreaksReserved (.announce (hdr 0x46 0 0 2) .none) ∧
      BreaksReserved (.revoke (hdr 0x46 0 1 0)) ∧ BreaksReserved (.lookup (hdr 0x46 1 0 0)) ∧
      BreaksReserved (.statusRead (hdr 0 0 0 1)) ∧ BreaksReserved (.codecSer (hdr 0x84 14 1 0) (.word 0)) ∧
      BreaksReserved (.codecDes (hdr 0x9E 1 0 0) []) ∧ BreaksReserved (.received (hdr 1 0 0 0) []) ∧
      BreaksReserved (.txDoneXFail { noRest with flgHi := 1 }) ∧ BreaksReserved (.txDoneXOk { noRest with flgHi := 2 }) ∧
      BreaksReserved (.txDoneAFail { noRest with la := 1 }) ∧ BreaksReserved (.txDoneAOk { noRest with opc := 1 }) ∧
      BreaksReserved (.tick (hdr 0 0 0 1)) ∧ BreaksReserved (.reserved0 (hdr 0 0 0 0)) ∧
      BreaksReserved (.reservedD (hdr 0 0 0 0)) ∧ BreaksReserved (.reservedE (hdr 0 0 0 0)) ∧
      BreaksReserved (.reservedF (hdr 0 0 0 0)) ∧ portCarries (.caller 0) (.received (hdr 0 0 0 0) []) = false ∧
      portCarries (.caller 0) (.txDoneXOk noRest) = false ∧ portCarries (.caller 0) (.tick (hdr 0 0 0 0)) = false ∧
      portCarries .channel (.statusRead (hdr 0 0 0 0)) = false ∧ portCarries .timer (.received (hdr 0 0 0 0) []) = false ∧
      State.reset.issuer = .caller 0 ∧ (issuedBy .channel State.reset).issuer = .channel ∧
      (issuedBy .timer State.reset).issuer = .timer := by
  simp only [BreaksReserved]
  repeat' apply And.intro
  all_goals decide

theorem witness_ErrorsChangeNothing :
    (State.reset.ports[0]?.map CallerPort.phase) = some .ready ∧
      ∃ t out, exec (.revoke (hdr 0x46 0 0 0)) State.reset = .next t ∧ t.outputs = State.reset.outputs ++ [out] ∧
        out.resp.result ≠ .none := ⟨by decide, _, _, rfl, rfl, by decide⟩

theorem witness_ReadsHaveNoEffect :
    (∃ t, exec (.statusRead (hdr 0 0 0 0)) State.reset = .next t) ∧
      ∃ t, exec (.codecDes (hdr 0x9E 0 0 1) [0x05]) State.reset = .next t := ⟨⟨_, rfl⟩, ⟨_, rfl⟩⟩

/-! ### Steps -/

theorem witness_OneResponsePerStep : ∃ t, step (presenting [.caller 0] [0x70, 0, 0, 0] State.reset) = .next t := ⟨_, rfl⟩

theorem witness_StepRunsDecodedInstruction :
    State.reset.config.wf = true ∧ (State.reset.ports[1]?.map CallerPort.phase) = some .ready ∧
      (presenting [.caller 1] [0x70, 0, 0, 0] State.reset).env.callerIn[1]? = some [0x70, 0, 0, 0] ∧
      decodeCommand State.reset.config.catalog [0x70, 0, 0, 0] = .ok (.statusRead (hdr 0 0 0 0), []) ∧
      decodeCommand State.reset.config.catalog (presenting [.channel] [0xB0, 0, 0, 1] State.reset).env.channelIn =
        .ok (.txDoneXOk noRest, []) ∧
      decodeCommand State.reset.config.catalog (presenting [.timer] [0xC0, 0, 0, 0] State.reset).env.timerIn =
        .ok (.tick (hdr 0 0 0 0), []) ∧
      decodeFrame ((spliceBytes zeroBuf 0 [0x9E, 0x05]).toList.take (2 : BitVec 4).toNat) = .ok (.cecVersion [0x05]) ∧
      ({ init := 0, len := 0, data := zeroBuf } : BusUnit).len = 0 := by decide

theorem witness_StepTakesTurn :
    State.reset.config.wf = true ∧ State.reset.env.schedule = [] ∧
      (presenting [.timeout] [] State.reset).env.schedule = .timeout :: [] ∧
      (pending.ports[0]?.map CallerPort.phase) = some .txnWait ∧ Phase.txnWait ≠ .ready ∧
      (presenting [.reset] [] State.reset).env.schedule = .reset :: [] ∧ State.reset.ports.length ≤ 2 ∧
      State.reset.env.inbound = [] ∧ (State.reset.ports[1]?.map CallerPort.phase) = some .ready ∧
      decodeCommand State.reset.config.catalog ((presenting [.caller 1] [0x70, 0, 0] State.reset).env.callerIn.getD 1 []) =
        .error .shortHeader ∧
      decodeCommand State.reset.config.catalog State.reset.env.channelIn = .error .shortHeader ∧
      decodeCommand State.reset.config.catalog (presenting [.timer] [0xC0] State.reset).env.timerIn = .error .shortHeader := by
  decide

theorem witness_IllFormedConfigRefused :
    step { State.reset with config := { Config.standard with nx := 17 } } = .refused .illFormedConfig := rfl

theorem witness_ConfigNeverChanges : ∃ t, step (presenting [.reset] [] pending) = .next t := ⟨_, rfl⟩

theorem witness_ResetValues :
    Config.standard.wf = true ∧ pending.config = Config.standard ∧ (presenting [.reset] [] pending).env.schedule = .reset :: [] := by
  decide

theorem witness_ResetDuringActivity :
    pending.config.wf = true ∧ (presenting [.reset] [0xB0, 0, 0, 1] pending).env.schedule = .reset :: [] := by decide

theorem witness_StepKeepsInvariant :
    (presenting [.deliver] [] waiting).Inv ∧ ∃ t, step (presenting [.deliver] [] waiting) = .next t :=
  ⟨own_fields_keep_inv waiting_inv false _ _ _ _ _, _, rfl⟩

theorem witness_ResetInvariant : Config.standard.wf = true := by decide

theorem witness_NoStepFaults :
    (presenting [.caller 0] [] resolved).Inv ∧ State.reset.st = .idle ∧ State.reset.cscr.valid = false ∧
      Slot.reset.life = .released ∧ Slot.reset.rplValid = false ∧ RegEntry.reset.valid = false ∧
      (silentEntry (hdr 0 0 0 0) .empty).respond = false ∧ CallerPort.reset.phase ≠ .admitWait ∧ 15 < 15 + 1 ∧
      (14 + 1 ≤ 15 ∧ 14 < 14 + 1) ∧ ([] : List Byte).length < 0 + 1 :=
  ⟨own_fields_keep_inv resolved_inv false _ _ _ _ _, by decide⟩

theorem witness_SingleFlight :
    pending.Inv ∧ (pending.slots[0]?.map fun x => x.life.inTransaction) = some true ∧
      ∃ t, step (presenting [.caller 0] [0x20, 0, 0, 0, 0, 0, 0, 0xC8] (withSlot0 slot0 { State.reset with owner := 1 })) =
        .next t ∧ t.owner ≠ 1 := ⟨pending_inv, by decide, _, rfl, by decide⟩

theorem witness_TransitionTable :
    (presenting [.deliver] [] waiting).Inv ∧
      ∃ t, step (presenting [.deliver] [] waiting) = .next t ∧ t.st ≠ (presenting [.deliver] [] waiting).st :=
  ⟨own_fields_keep_inv waiting_inv false _ _ _ _ _, _, rfl, by decide⟩

theorem witness_TxnWaitLeftByReturn :
    ∃ t, step (presenting [.caller 0] [] resolved) = .next t ∧ (resolved.ports[0]?.map CallerPort.phase) = some .txnWait ∧
      (t.ports[0]?.map CallerPort.phase) = some .ready := ⟨_, rfl, by decide, by decide⟩

theorem witness_LifeTransitions :
    (presenting [.deliver] [] waiting).Inv ∧
      ∃ t, step (presenting [.deliver] [] waiting) = .next t ∧
        (t.slots[0]?.map Slot.life) = some .resolved ∧ (waiting.slots[0]?.map Slot.life) = some .armed :=
  ⟨own_fields_keep_inv waiting_inv false _ _ _ _ _, _, rfl, by decide, by decide⟩

end Sys2Proof.Tests
end

section
/-! PROOFS. The statements about the registers of spec/10_state.md: REG_CONFLICT (R40) and the phase TXN_WAIT (R53). Each
follows from what the forms of Laws/Effects.lean and Laws/Steps.lean do to that one register. -/

namespace Sys2Proof.Machine

/-! ## What the shared effects do to REG_CONFLICT and to the caller ports -/

theorem inbound_regConflict {i : LogicalAddr} {o : Byte} {s t : State} (h : inbound i o s = .ok t) :
    t.regConflict = s.regConflict := by
  obtain rfl | ⟨r, -, rfl⟩ := inbound_eq_ok h <;> rfl

theorem inbound_ports {i : LogicalAddr} {o : Byte} {s t : State} (h : inbound i o s = .ok t) : t.ports = s.ports := by
  obtain rfl | ⟨r, -, rfl⟩ := inbound_eq_ok h <;> rfl

theorem tick_regConflict (s : State) : (tick s).regConflict = s.regConflict := by
  unfold tick
  split <;> rfl

theorem tick_ports (s : State) : (tick s).ports = s.ports := by
  unfold tick
  split <;> rfl

theorem ArmEffect.regConflict {c : Nat} {d : LogicalAddr} {k : BitVec 4} {w : Word32} {s t : State}
    (h : ArmEffect c d k w s t) : t.regConflict = s.regConflict := by
  cases h <;> rfl

/-- ARM writes the phase of its own port only (43_adapter.md R322). -/
theorem ArmEffect.ports_of_ne {c j : Nat} {d : LogicalAddr} {k : BitVec 4} {w : Word32} {s t : State}
    (h : ArmEffect c d k w s t) (hj : j ≠ c) : t.ports[j]? = s.ports[j]? := by
  cases h with
  | wrongLife => simp [hj.symm]
  | tooLarge => simp [hj.symm]
  | arms => simp [armed, hj.symm]

theorem TxDoneXEffect.regConflict {s t : State} {ok : Bool} (h : TxDoneXEffect s ok t) : t.regConflict = s.regConflict := by
  cases h <;> rfl

theorem TxDoneXEffect.ports {s t : State} {ok : Bool} (h : TxDoneXEffect s ok t) : t.ports = s.ports := by
  cases h <;> rfl

theorem ReceiveEffect.regConflict {p : Port} {i : LogicalAddr} {s t : State} {b : List Byte}
    (h : ReceiveEffect p i s b t) : t.regConflict = s.regConflict := by
  cases h with
  | footer => rfl
  | reply => rfl
  | other _ _ _ h => exact (inbound_regConflict h :)

theorem ReceiveEffect.ports {p : Port} {i : LogicalAddr} {s t : State} {b : List Byte} (h : ReceiveEffect p i s b t) :
    t.ports = s.ports := by
  cases h with
  | footer => rfl
  | reply => rfl
  | other _ _ _ h => exact (inbound_ports h :)

/-! ## REG_CONFLICT (10_state.md R40) -/

/-- The state in which an ANNOUNCE of port c has answered ALREADY_REGISTERED (41_registry.md R260). -/
def conflicted (c : Nat) (s : State) : State := raise (.caller c) .alreadyRegistered { s with regConflict := true }

@[simp] theorem conflicted_regConflict (c : Nat) (s : State) : (conflicted c s).regConflict = true := rfl

@[simp] theorem conflicted_outputs (c : Nat) (s : State) :
    (conflicted c s).outputs = s.outputs ++ [⟨.caller c, ⟨.alreadyRegistered, 0, []⟩⟩] := rfl

/-- An ANNOUNCE on a caller port gives one response; the one that answers ALREADY_REGISTERED leaves `conflicted`. -/
theorem announce_eq_next {h : Header} {v : Operand} {s t : State} {c : Nat} (hc : s.issuer = .caller c)
    (he : exec (.announce h v) s = .next t) :
    t = conflicted c s ∨ ∃ r : Response, r.result ≠ .alreadyRegistered ∧ t.outputs = s.outputs ++ [⟨.caller c, r⟩] := by
  have ha : execAnnounce h v s = .next t := he
  rw [execAnnounce, onCallerPort_caller hc] at ha
  split at ha
  · split at ha
    · split at ha
      · cases ha; exact .inr ⟨⟨.badValue, 0, []⟩, by simp, rfl⟩
      · split at ha
        · cases ha; exact .inl rfl
        · cases ha; exact .inr ⟨⟨.none, 0, []⟩, by simp, rfl⟩
    · split at ha
      · cases ha; exact .inl rfl
      · cases ha; exact .inr ⟨⟨.none, 0, []⟩, by simp, rfl⟩
  · cases ha; exact .inr ⟨⟨.illegalCommand, 0, []⟩, by simp, rfl⟩

/-- An instruction keeps REG_CONFLICT, or it is an ANNOUNCE that answers ALREADY_REGISTERED. -/
theorem Effect.regConflict_eq_or_conflicted {i : Instr} {s t : State} (h : Effect i s t) :
    t.regConflict = s.regConflict ∨ ∃ hd v c, i = .announce hd v ∧ t = conflicted c s := by
  cases h with
  | conflicts hd v _ c _ => exact .inr ⟨hd, v, c, rfl, rfl⟩
  | unchanged | answers | creates | announces | announcesSilent | revokes | decodes | waits | txDoneA => exact .inl rfl
  | arms _ _ _ _ _ _ _ _ ha => exact .inl ha.regConflict
  | txDoneX _ _ _ _ _ hx => exact .inl hx.regConflict
  | receives _ _ _ _ _ _ hr => exact .inl hr.regConflict
  | ticks => exact .inl (tick_regConflict s)

/-- No instruction clears REG_CONFLICT. -/
theorem exec_keeps_regConflict {i : Instr} {s t : State} (h : exec i s = .next t) (hs : s.regConflict = true) :
    t.regConflict = true := by
  obtain hr | ⟨_, _, _, -, rfl⟩ := (exec_effect h).regConflict_eq_or_conflicted
  · rw [hr, hs]
  · rfl

/-- No turn but reset clears REG_CONFLICT. -/
theorem MoveEffect.keeps_regConflict {m : Move} {s t : State} (h : MoveEffect m s t) (hs : s.regConflict = true) :
    t.regConflict = true ∨ m = .reset := by
  cases h with
  | holds | footer | returns | timesOut => exact .inl hs
  | command p i rest _ _ _ _ he => exact .inl (exec_keeps_regConflict he (by simpa using hs))
  | frame u rest i _ _ _ _ he => exact .inl (exec_keeps_regConflict he (by simpa using hs))
  | admits _ _ _ _ _ _ _ ha => exact .inl (ha.regConflict.trans hs)
  | resets => exact .inr rfl

/-- Settles O23: of all effects only an ANNOUNCE's conflict answer writes REG_CONFLICT, and it writes 1. -/
theorem regConflictSticky : Obligations.RegConflictSticky := by
  refine ⟨?setBy, ?changedBy, ?kept, fun _ => rfl⟩
  case setBy =>
    intro h v s t c hc he ho
    obtain rfl | ⟨r, hr, hro⟩ := announce_eq_next hc he
    · rfl
    · obtain rfl : r = ⟨.alreadyRegistered, 0, []⟩ := by simpa [hro] using ho
      exact absurd rfl hr
  case changedBy =>
    intro i s t he hne
    obtain hr | ⟨h, v, c, rfl, rfl⟩ := (exec_effect he).regConflict_eq_or_conflicted
    · exact absurd hr hne
    · exact ⟨rfl, h, v, c, rfl, rfl⟩
  case kept =>
    intro s t he hs
    obtain ⟨-, ⟨-, rfl⟩ | ⟨m, rest, hm, h⟩⟩ := step_effect he
    · exact .inl hs
    · obtain ht | rfl := h.keeps_regConflict hs
      · exact .inl ht
      · exact .inr ⟨rest, hm⟩

/-! ## TXN_WAIT (10_state.md R53) -/

/-- An instruction leaves the registers of every caller port but its issuer's as they were. -/
theorem Effect.ports_of_issuer_ne {i : Instr} {s t : State} {c : Nat} (h : Effect i s t) (hc : s.issuer ≠ .caller c) :
    t.ports[c]? = s.ports[c]? := by
  have other : ∀ {c' : Nat}, s.issuer = .caller c' → c ≠ c' := fun hi e => hc (e ▸ hi)
  cases h with
  | unchanged | answers | creates | conflicts | announces | announcesSilent | revokes | decodes | txDoneA => rfl
  | waits _ _ _ c' hi => simp [(other hi).symm]
  | arms _ _ _ _ _ hi _ _ ha => exact ha.ports_of_ne (other hi)
  | txDoneX _ _ _ _ _ hx => rw [hx.ports]
  | receives _ _ _ _ _ _ hr => rw [hr.ports]
  | ticks => rw [tick_ports]

/-- A turn keeps a port that is in TXN_WAIT, unless it is that port's RETURN, which makes it READY, or reset. -/
theorem MoveEffect.port_in_txnWait {m : Move} {s t : State} {c : Nat} {q : CallerPort} (h : MoveEffect m s t)
    (hq : s.ports[c]? = some q) (hp : q.phase = .txnWait) :
    t.ports[c]? = some q ∨
      (m = .caller c ∧ returnEnabled c s = .ok true ∧ t.ports[c]? = some { q with phase := .ready }) ∨ m = .reset := by
  have busy : ∀ {c' : Nat} {q' : CallerPort}, s.ports[c']? = some q' → q'.phase ≠ .txnWait → c ≠ c' := by
    rintro c' q' hq' hp' rfl
    obtain rfl : q = q' := by simpa [hq] using hq'
    exact hp' hp
  cases h with
  | holds | footer | timesOut => exact .inl hq
  | command p i rest _ _ hready _ he =>
    have hissuer : (issueFrom p rest s).issuer ≠ .caller c := by
      rw [issueFrom_issuer]
      intro hpc
      obtain ⟨q', hq', hp'⟩ := hready c hpc
      exact busy hq' (by simp [hp']) rfl
    exact .inl (by simpa [hq] using (exec_effect he).ports_of_issuer_ne hissuer)
  | frame u rest i _ _ _ _ he =>
    exact .inl (by simpa [hq] using (exec_effect he).ports_of_issuer_ne (c := c) (by simp))
  | admits c' q' _ _ hq' hp' _ ha =>
    exact .inl ((ha.ports_of_ne (busy hq' (by simp [hp']))).trans hq)
  | returns c' q' x res r _ _ _ he =>
    by_cases hc : c = c'
    · subst hc
      exact .inr (.inl ⟨rfl, he, by simp [returned, hq]⟩)
    · exact .inl (by simp [returned, hq, Ne.symm hc])
  | resets => exact .inr (.inr rfl)

/-- Settles O59: a command is taken on a READY port and ADMIT on one in ADMIT_WAIT, so neither touches a port in TXN_WAIT. -/
theorem txnWaitLeftByReturn : Obligations.TxnWaitLeftByReturn := by
  intro s t c q q' he hq hp hq' hp'
  obtain ⟨-, ⟨-, rfl⟩ | ⟨m, rest, hm, h⟩⟩ := step_effect he
  · obtain rfl : q = q' := by simpa [hq] using hq'
    exact absurd hp hp'
  · obtain hkept | ⟨rfl, hret, hready⟩ | rfl := h.port_in_txnWait hq hp
    · obtain rfl : q = q' := by simpa [hkept] using hq'
      exact absurd hp hp'
    · obtain rfl : { q with phase := .ready } = q' := by simpa [hready] using hq'
      exact .inl ⟨rest, hm, hret, rfl⟩
    · exact .inr ⟨rest, hm⟩

end Sys2Proof.Machine
end

section
/-! PROOFS. The fields of CMDW and the OP map (spec/30_encoding.md R155, R156): the first word of a command is what its bytes'
nibbles write, and each OP's command is the one the map names. -/

namespace Sys2Proof.Machine

/-- The fields below OP of the header word with bytes b0, b1, b2, b3 (R155). -/
def nibbleHeader (b0 b1 b2 b3 : Byte) : Header where
  la := b0.extractLsb' 0 4
  opc := b1
  opc2 := b2
  slot := b3.extractLsb' 4 4
  flg := b3.extractLsb' 0 4

/-- A byte is its two nibbles, as numbers. -/
theorem toNat_eq_nibbles (b : Byte) : b.toNat = (b.extractLsb' 4 4).toNat * 16 + (b.extractLsb' 0 4).toNat := by
  have := b.isLt
  simp only [BitVec.extractLsb'_toNat, Nat.shiftRight_eq_div_pow]
  omega

/-- The number a CMDW spells, by its fields (R155). -/
theorem cmdw_toNat (op : BitVec 4) (h : Header) :
    (cmdw op h).toNat = ((((op.toNat * 16 + h.la.toNat) * 256 + h.opc.toNat) * 256 + h.opc2.toNat) * 16 + h.slot.toNat) * 16
      + h.flg.toNat := by
  have app : ∀ {m n : Nat} (x : BitVec m) (y : BitVec n), (x ++ y).toNat = x.toNat * 2 ^ n + y.toNat := by
    intro m n x y
    rw [BitVec.toNat_append, ← Nat.shiftLeft_add_eq_or_of_lt y.isLt, Nat.shiftLeft_eq]
  simp only [cmdw, app]
  norm_num

/-- Four bytes, most significant first, are the CMDW of their nibbles (R155). -/
theorem takeWord_eq_cmdw (b0 b1 b2 b3 : Byte) (bs : List Byte) :
    takeWord (b0 :: b1 :: b2 :: b3 :: bs) = some (cmdw (b0.extractLsb' 4 4) (nibbleHeader b0 b1 b2 b3), bs) := by
  have word : unbe [b0, b1, b2, b3] = (cmdw (b0.extractLsb' 4 4) (nibbleHeader b0 b1 b2 b3)).toNat := by
    simp only [cmdw_toNat, nibbleHeader, unbe_cons, unbe_nil, List.length_cons, List.length_nil]
    have h0 := toNat_eq_nibbles b0
    have h3 := toNat_eq_nibbles b3
    omega
  simp only [takeWord, word, BitVec.ofNat_toNat, BitVec.setWidth_eq]

/-- The low two bits of FLG are TX_DONE's tag and success bit (R157). -/
theorem flg_tag_ok (f : BitVec 4) : f.extractLsb' 0 2 = BitVec.ofBool (f.getLsbD 1) ++ BitVec.ofBool (f.getLsbD 0) := by
  decide +revert

/-- The command of a word with OP op and fields h is the one the OP map names, with those fields (R156, R157). -/
theorem decodeOperands_spelledBy {cat : List (Byte × Family)} {op : BitVec 4} {h : Header} {bs rest : List Byte} {i : Instr}
    (hd : decodeOperands cat op h bs = some (i, rest)) : SpelledBy op h i := by
  have opIs : ∀ {k : Nat}, op.toNat = k → op = BitVec.ofNat 4 k := by
    rintro _ rfl
    simp
  have taken : ∀ {j : Instr}, some (j, bs) = some (i, rest) → SpelledBy op h j → SpelledBy op h i := by
    rintro j ⟨⟩ hj
    exact hj
  have mapped : ∀ {α : Type} {x : Option (α × List Byte)} {f : α → Instr},
      x.map (fun (a, rest) => (f a, rest)) = some (i, rest) → (∀ a, SpelledBy op h (f a)) → SpelledBy op h i := by
    intro α x f e hf
    obtain ⟨⟨a, r⟩, -, e⟩ := Option.map_eq_some_iff.1 e
    cases e
    exact hf a
  unfold decodeOperands at hd
  split at hd
  case h_5 hop => -- ANNOUNCE: an operand only under FLG[0]
    split at hd
    · exact mapped hd fun _ => ⟨opIs hop, rfl⟩
    · exact taken hd ⟨opIs hop, rfl⟩
  case h_12 hop => -- TX_DONE: the row is chosen by the tag and the success bit
    have flags := flg_tag_ok h.flg
    split at hd <;> rename_i tag ok <;> rw [tag, ok] at flags <;> exact taken hd ⟨opIs hop, rfl, flags⟩
  case h_16 => -- the default row: no OP below 15
    have hop : op.toNat = 15 := by
      have := op.isLt
      grind only
    exact taken hd ⟨opIs hop, rfl⟩
  -- The rows with an operand, then those without.
  case h_2 hop | h_3 hop | h_9 hop | h_10 hop | h_11 hop => exact mapped hd fun _ => ⟨opIs hop, rfl⟩
  all_goals exact taken hd ⟨opIs ‹_›, rfl⟩

/-- OP alone says which port carries the command, by the port column of the OP map (R156). -/
theorem SpelledBy.portCarries_iff {op : BitVec 4} {h : Header} {i : Instr} (hs : SpelledBy op h i) :
    (∀ c, portCarries (.caller c) i = true ↔ 0x1#4 ≤ op ∧ op ≤ 0x9#4) ∧
      (portCarries .channel i = true ↔ op = 0xA ∨ op = 0xB) ∧ (portCarries .timer i = true ↔ op = 0xC) := by
  -- A frame is spelled by no OP, and each of the other rows fixes OP.
  cases i <;> obtain ⟨rfl, -⟩ := hs
  all_goals simp [portCarries, isCallerCommand, isChannelCommand, isTimerCommand]

/-- What a header word and the bytes after it decode to is read from the word's nibbles. -/
theorem decodeCommand_spelledBy {cat : List (Byte × Family)} {b0 b1 b2 b3 : Byte} {bs rest : List Byte} {i : Instr}
    (hd : decodeCommand cat (b0 :: b1 :: b2 :: b3 :: bs) = .ok (i, rest)) :
    SpelledBy (b0.extractLsb' 4 4) (nibbleHeader b0 b1 b2 b3) i := by
  obtain ⟨hop, hhdr⟩ := cmdw_fields (b0.extractLsb' 4 4) (nibbleHeader b0 b1 b2 b3)
  simp only [decodeCommand, takeWord_eq_cmdw, hop, hhdr] at hd
  split at hd
  · cases hd
  · cases hd
    exact decodeOperands_spelledBy ‹_›

/-- Settles O2: a header word is the CMDW of its nibbles, and the decoder takes OP's row of the map. -/
theorem headerFieldsAreNibbles : Obligations.HeaderFieldsAreNibbles := by
  intro b0 b1 b2 b3
  refine ⟨⟨_, takeWord_eq_cmdw b0 b1 b2 b3 [], cmdw_fields _ _⟩, ?_⟩
  intro cat bs rest i hd
  have hs := decodeCommand_spelledBy hd
  exact ⟨hs, hs.portCarries_iff⟩

end Sys2Proof.Machine
end

section
/-! PROOFS. The statements about the frame codec (spec/40_frame_codec.md): what Serialize writes and what Deserialize reads,
family by family, and what the test port's CODEC_SER and CODEC_DES answer. -/

namespace Sys2Proof.Machine

/-! ## Serialize -/

/-- A value of a fixed-width family is written exactly when its width fits (R200): of these families only EMPTY has an empty
encoding, and there it is a valid payload (R220). -/
theorem serialize_fixed {v : Value} {w : Nat} (hw : v.family.width = some w) (m : Nat) :
    serialize v m = if w ≤ min m 14 then some (encValue v) else none := by
  have payload : 0 < w ∨ v.family.emptyOk = true := by
    cases v <;> simp only [Value.family, Family.width, Option.some.injEq, reduceCtorEq] at hw
    case empty => exact .inr rfl
    all_goals exact .inl (by omega)
  simp only [serialize_eq_ite, encValue_length hw, payload, and_true]

/-- Byte k of a number is its bits 8k+7 to 8k (00_scope.md R10). -/
theorem ofNat_toNat_shiftRight {n : Nat} (v : BitVec n) (k : Nat) : BitVec.ofNat 8 (v.toNat >>> k) = v.extractLsb' k 8 := rfl

/-- Settles O9: the encodings have a fixed width, and their bytes are slices of the value. -/
theorem numericEncoders : Obligations.NumericEncoders := by
  intro m
  refine ⟨fun v => ?_, fun v => ?_, fun v => ?_⟩
  all_goals
    rw [serialize_fixed rfl]
    simp only [encValue, be_succ, be_zero, ofNat_toNat_shiftRight, Nat.reduceMul, BitVec.extractLsb'_eq_self]

/-- Settles O11: EMPTY and LANGUAGE have a fixed width; of the other two only RAW admits the empty encoding (R220). -/
theorem byteFamilyEncoders : Obligations.ByteFamilyEncoders := by
  intro m b0 b1 b2 b
  refine ⟨?_, ?_, ?_, ?_⟩
  · rw [serialize_fixed rfl, if_pos (Nat.zero_le _)]
    rfl
  · exact serialize_fixed rfl m
  · rw [serialize_eq_ite]
    simp [encValue, Value.family, Family.emptyOk, Nat.one_le_iff_ne_zero, Nat.pos_iff_ne_zero, and_comm]
  · rw [serialize_eq_ite]
    simp [encValue, Value.family, Family.emptyOk]

/-! ## Deserialize -/

/-- A fixed-width family takes exactly its width (R201). -/
theorem lengthOk_fixed {f : Family} {w : Nat} (hw : f.width = some w) {n : Nat} : lengthOk f n = true ↔ n = w := by
  simp [lengthOk, hw]

/-- A variable-length family takes up to 14 bytes (R201). -/
theorem lengthOk_variable {f : Family} (hw : f.width = none) {n : Nat} : lengthOk f n = true ↔ n ≤ 14 := by
  simp [lengthOk, hw]

/-- Deserialize as one test, p being the family's length check. -/
theorem deserialize_eq_ite {f : Family} {b : List Byte} {v : Value} {p : Prop} [Decidable p]
    (hp : lengthOk f b.length = true ↔ p) (hv : p → decValue f b = .ok v) :
    deserialize f b = .ok (if p then some v else none) := by
  split
  · exact deserialize_eq_some.2 ⟨hp.2 ‹p›, hv ‹p›⟩
  · exact deserialize_eq_none.2 (Bool.eq_false_iff.2 fun h => ‹¬p› (hp.1 h))

/-- A fixed-width family rejects every other length (R201). -/
theorem deserialize_of_length_ne {f : Family} {w : Nat} (hw : f.width = some w) {b : List Byte} (hb : b.length ≠ w) :
    deserialize f b = .ok none :=
  deserialize_eq_none.2 (Bool.eq_false_iff.2 fun h => hb ((lengthOk_fixed hw).1 h))

/-- Settles O10: bytes of the family's width decode to the number they spell; no other length passes the check. -/
theorem numericDecoders : Obligations.NumericDecoders := by
  refine ⟨fun b0 => ?_, fun b0 b1 => ?_, fun b0 b1 b2 => ?_,
    fun _ => deserialize_of_length_ne rfl, fun _ => deserialize_of_length_ne rfl, fun _ => deserialize_of_length_ne rfl⟩
  all_goals
    refine deserialize_eq_some.2 ⟨rfl, ?_⟩
    simp [decValue, decNumber_all, Except.map, unbe_cons, Nat.add_assoc]

/-- A language tag is the three bytes, whatever they are (R211). -/
theorem decValue_language {b : List Byte} (hb : b.length = 3) :
    decValue .language b = .ok (.language (b.getD 0 0) (b.getD 1 0) (b.getD 2 0)) := by
  match b, hb with
  | [_, _, _], _ => rfl

/-- Settles O12: each family's length check, and what the bytes that pass it decode to. -/
theorem byteFamilyDecoders : Obligations.ByteFamilyDecoders := fun b =>
  ⟨deserialize_eq_ite (lengthOk_fixed rfl) fun _ => rfl,
   deserialize_eq_ite (lengthOk_fixed rfl) decValue_language,
   deserialize_eq_ite (lengthOk_variable rfl) fun _ => by simp [decValue, Except.map],
   deserialize_eq_ite (lengthOk_variable rfl) fun _ => by simp [decValue, Except.map]⟩

/-! ## A command on a caller port -/

theorem onCallerPort_legal {legal : Bool} {s : State} {c : Nat} (hc : s.issuer = .caller c) (hl : legal = true)
    (k : Nat → Step) : onCallerPort legal s k = k c := by
  rw [onCallerPort_caller hc, if_pos hl]

theorem onCallerPort_illegal {legal : Bool} {s : State} {c : Nat} (hc : s.issuer = .caller c) (hl : ¬ legal = true)
    (k : Nat → Step) : onCallerPort legal s k = .next (raise (.caller c) .illegalCommand s) := by
  rw [onCallerPort_caller hc, if_neg hl]

/-! ## CODEC_SER (R223) -/

theorem legalCodecSer_iff {h : Header} : legalCodecSer h = true ↔ h.la = 0 ∧ h.slot = 0 ∧ h.flg = 0 := by
  simp [legalCodecSer, and_assoc]

/-- The bits of CODEC_SER's INFO: ok in bit 0, n in bits 11 to 8, the others 0. -/
theorem codecSerInfo_fields (ok : Bool) {n : Nat} (hn : n ≤ 14) :
    (codecSerInfo ok n).getLsbD 0 = ok ∧ (codecSerInfo ok n).extractLsb' 1 7 = 0 ∧
      ((codecSerInfo ok n).extractLsb' 8 4).toNat = n ∧ (codecSerInfo ok n).extractLsb' 12 12 = 0 := by
  revert ok n
  decide

/-- What CODEC_SER answers to a valid value, in one form for both outcomes of Serialize. -/
theorem exec_codecSer_of_value {h : Header} {o : Operand} {s : State} {c : Nat} {v : Value} (hc : s.issuer = .caller c)
    (hl : legalCodecSer h = true) (hv : operandValue s.config.osdNameMax (s.config.family h.opc) o = some v) :
    exec (.codecSer h o) s = .next (respond (.caller c)
      { result := .none
        info := codecSerInfo (serialize v h.opc2.toNat).isSome ((serialize v h.opc2.toNat).getD []).length
        tail := (serialize v h.opc2.toNat).getD [] } s) := by
  simp only [exec, execCodecSer, onCallerPort_legal hc hl, hv]
  cases serialize v h.opc2.toNat <;> rfl

/-- Settles O16: the paths of CODEC_SER in the order of its checks; a written encoding has at most 14 bytes, so INFO holds n. -/
theorem codecSerResult : Obligations.CodecSerResult := by
  intro h o s c hc
  refine ⟨fun reserved => ?_, fun hla hslot hflg => ?_⟩
  · exact onCallerPort_illegal hc (by rw [legalCodecSer_iff]; tauto) _
  · have hl := legalCodecSer_iff.2 ⟨hla, hslot, hflg⟩
    refine ⟨fun hv => ?_, fun v hv => ?_⟩
    · simp only [exec, execCodecSer, onCallerPort_legal hc hl, hv]
    · have len : ((serialize v h.opc2.toNat).getD []).length ≤ 14 := by
        cases hs : serialize v h.opc2.toNat with
        | none => exact Nat.zero_le _
        | some b => exact serialize_length hs
      exact ⟨_, exec_codecSer_of_value hc hl hv, codecSerInfo_fields _ len⟩

/-! ## CODEC_DES (R224) -/

theorem legalCodecDes_iff {h : Header} : legalCodecDes h = true ↔ h.la = 0 ∧ h.opc2 = 0 ∧ h.slot = 0 := by
  simp [legalCodecDes, and_assoc]

theorem codecDesInfo_eq (f : Family) : codecDesInfo f = BitVec.setWidth 24 f.code := by
  cases f <;> rfl

/-- Settles O17: the paths of CODEC_DES in the order of its checks; CSCR is written on the last one only. -/
theorem codecDesResult : Obligations.CodecDesResult := by
  intro h b s c hc
  refine ⟨fun reserved => ?_, fun hla hopc2 hslot => ?_⟩
  · exact onCallerPort_illegal hc (by rw [legalCodecDes_iff]; tauto) _
  · have hl := legalCodecDes_iff.2 ⟨hla, hopc2, hslot⟩
    refine ⟨fun hd => ?_, fun v hd => ?_⟩
    · simp only [exec, execCodecDes, onCallerPort_legal hc hl, hd, orFault_ok]
    · simp only [exec, execCodecDes, onCallerPort_legal hc hl, hd, orFault_ok, codecDesInfo_eq]

end Sys2Proof.Machine
end

section
/-! PROOFS. The statements about the registry commands (spec/41_registry.md): what ANNOUNCE, REVOKE and LOOKUP answer on a
caller port, and what they do to the entry of their opcode. -/

namespace Sys2Proof.Machine

/-! ## ANNOUNCE (R260) -/

theorem legalAnnounce_iff {h : Header} : legalAnnounce h = true ↔
    h.la = 0 ∧ h.slot = 0 ∧ h.flg.extractLsb' 2 2 = 0 ∧
      (h.flg.getLsbD 0 = true ∨ h.opc2 = 0 ∧ h.flg.getLsbD 1 = false) := by
  simp [legalAnnounce, flgHighZero, flgRespond, flgBcast, and_assoc]

/-- An ANNOUNCE fits when its fields are legal and, if the handler answers, its value is valid. -/
theorem announceFits_iff {cfg : Config} {h : Header} {v : Operand} : AnnounceFits cfg h v ↔
    legalAnnounce h = true ∧
      (h.flg.getLsbD 0 = true → ∃ val, operandValue cfg.osdNameMax (cfg.family h.opc2) v = some val) := by
  rw [AnnounceFits, legalAnnounce_iff, ← Option.isSome_iff_exists]
  cases h.flg.getLsbD 0 <;> simp [and_assoc]

section
variable {h : Header} {v : Operand} {s : State} {c : Nat}

/-- ANNOUNCE of a handler that answers with val: the test and insert of the entry. -/
theorem exec_announce_answering (hc : s.issuer = .caller c) (hl : legalAnnounce h = true) (hr : h.flg.getLsbD 0 = true)
    {val : Value} (hval : operandValue s.config.osdNameMax (s.config.family h.opc2) v = some val) :
    exec (.announce h v) s = if (readReg h.opc s).valid then announceConflict c s
      else .next (respondOk (.caller c) (writeReg h.opc (answeringEntry h val) s)) := by
  simp only [exec, execAnnounce, onCallerPort_legal hc hl, flgRespond, hr, if_true, hval]

/-- ANNOUNCE of a handler that does not answer: no value is read, and VAL of the entry is a free value (log 9). -/
theorem exec_announce_silent (hc : s.issuer = .caller c) (hl : legalAnnounce h = true) (hr : h.flg.getLsbD 0 = false) :
    exec (.announce h v) s = if (readReg h.opc s).valid then announceConflict c s
      else .next (respondOk (.caller c) (writeReg h.opc (silentEntry h (freshValue s)) (useFree s))) := by
  simp only [exec, execAnnounce, onCallerPort_legal hc hl, flgRespond, hr, Bool.false_eq_true, if_false]

/-- The check of the fields admits a handler that does not answer only with BCAST = 0. -/
theorem silentEntry_eq (hl : legalAnnounce h = true) (hr : h.flg.getLsbD 0 = false) (any : Value) :
    silentEntry h any = { valid := true, respond := false, bcast := false, rplOpc := 0, val := any } := by
  obtain ⟨-, -, -, hr' | ⟨-, hb⟩⟩ := legalAnnounce_iff.1 hl
  · cases hr'.symm.trans hr
  · rw [silentEntry, flgBcast, hb]

/-- An ANNOUNCE that fits and meets a registered opcode conflicts, whether or not its handler would answer. -/
theorem exec_announce_registered (hc : s.issuer = .caller c) (hf : AnnounceFits s.config h v)
    (hv : (readReg h.opc s).valid = true) : exec (.announce h v) s = announceConflict c s := by
  obtain ⟨hl, hval⟩ := announceFits_iff.1 hf
  cases hr : h.flg.getLsbD 0 with
  | false => rw [exec_announce_silent hc hl hr, if_pos hv]
  | true =>
    obtain ⟨val, hval⟩ := hval hr
    rw [exec_announce_answering hc hl hr hval, if_pos hv]

end

/-- Settles O18: the paths of ANNOUNCE in the order of its checks; the test of the entry is the same for both kinds of handler. -/
theorem announceResult : Obligations.AnnounceResult := by
  intro h v s c hc
  refine ⟨?reserved, ?badValue, exec_announce_registered hc, ?answering, ?silent⟩
  case reserved =>
    intro hbad
    refine onCallerPort_illegal hc (fun hl => ?_) _
    obtain ⟨hla, hslot, hhigh, hlow⟩ := legalAnnounce_iff.1 hl
    simp_all
  case badValue =>
    intro hla hslot hhigh hr hv
    have hl : legalAnnounce h = true := legalAnnounce_iff.2 ⟨hla, hslot, hhigh, .inl hr⟩
    simp only [exec, execAnnounce, onCallerPort_legal hc hl, flgRespond, hr, if_true, hv]
  case answering =>
    intro hf hfree hr val hval
    rw [exec_announce_answering hc (announceFits_iff.1 hf).1 hr hval, if_neg (Bool.eq_false_iff.1 hfree)]
    rfl
  case silent =>
    intro hf hfree hr
    have hl := (announceFits_iff.1 hf).1
    refine ⟨freshValue s, s.freeCount + 1, ?_⟩
    rw [exec_announce_silent hc hl hr, if_neg (Bool.eq_false_iff.1 hfree), silentEntry_eq hl hr]
    rfl

/-! ## REVOKE (R261) -/

theorem legalOpcodeOnly_iff {h : Header} : legalOpcodeOnly h = true ↔ h.la = 0 ∧ h.opc2 = 0 ∧ h.slot = 0 ∧ h.flg = 0 := by
  simp [legalOpcodeOnly, and_assoc]

/-- Settles O19: the paths of REVOKE in the order of its checks; the entry it leaves holds a free value in VAL (log 9). -/
theorem revokeResult : Obligations.RevokeResult := by
  intro h s c hc
  refine ⟨fun hbad => onCallerPort_illegal hc (by rw [legalOpcodeOnly_iff]; tauto) _, fun hla hopc2 hslot hflg => ?_⟩
  have hl := legalOpcodeOnly_iff.2 ⟨hla, hopc2, hslot, hflg⟩
  refine ⟨fun hfree => ?_, fun hv => ⟨freshValue s, s.freeCount + 1, ?_⟩⟩
  · simp only [exec, execRevoke, onCallerPort_legal hc hl, hfree, Bool.false_eq_true, if_false]
  · simp only [exec, execRevoke, onCallerPort_legal hc hl, hv, if_true]
    rfl

/-! ## LOOKUP (R262) -/

theorem lookupReg_eq_none {o : Byte} {s : State} : lookupReg o s = none ↔ (readReg o s).valid = false := by
  simp [lookupReg]

/-- The bits of LOOKUP's INFO: RESPOND, BCAST, six zeros, RPL_OPC, OPC. -/
theorem lookupInfo_fields (o : Byte) (e : RegEntry) :
    (lookupInfo o e).getLsbD 0 = e.respond ∧ (lookupInfo o e).getLsbD 1 = e.bcast ∧
      (lookupInfo o e).extractLsb' 2 6 = 0 ∧ (lookupInfo o e).extractLsb' 8 8 = e.rplOpc ∧
      (lookupInfo o e).extractLsb' 16 8 = o := by
  rw [lookupInfo]
  refine ⟨?respond, ?bcast, ?zeros, ?rplOpc, ?opc⟩
  case respond =>
    rw [BitVec.getLsbD_append]
    simp [bit]
  case bcast =>
    iterate 2 rw [BitVec.getLsbD_append]
    simp [bit]
  case zeros =>
    iterate 2 rw [BitVec.extractLsb'_append_eq_of_le (by decide)]
    rw [BitVec.extractLsb'_append_eq_right]
  case rplOpc =>
    iterate 3 rw [BitVec.extractLsb'_append_eq_of_le (by decide)]
    rw [BitVec.extractLsb'_append_eq_right]
  case opc =>
    iterate 3 rw [BitVec.extractLsb'_append_eq_of_le (by decide)]
    rw [BitVec.extractLsb'_append_eq_left]

/-- What LOOKUP answers for a registered opcode; VAL is read only when the entry answers, so the read does not fault. -/
theorem exec_lookup_registered {h : Header} {s : State} {c : Nat} (hc : s.issuer = .caller c) (hl : legalOpcodeOnly h = true)
    (hv : (readReg h.opc s).valid = true) :
    exec (.lookup h) s = .next (respond (.caller c)
      { result := .none, info := lookupInfo h.opc (readReg h.opc s)
        tail := if (readReg h.opc s).respond then valueBytes (readReg h.opc s).val else [] } s) := by
  simp only [exec, execLookup, onCallerPort_legal hc hl, lookupReg_eq_some.2 ⟨hv, rfl⟩]
  split
  · rw [readRegVal_eq_ok.2 ⟨hv, ‹_›, rfl⟩, orFault_ok]
  · rfl

/-- Settles O20: the paths of LOOKUP in the order of its checks; INFO is read field by field. -/
theorem lookupResult : Obligations.LookupResult := by
  intro h s c hc
  refine ⟨fun hbad => onCallerPort_illegal hc (by rw [legalOpcodeOnly_iff]; tauto) _, fun hla hopc2 hslot hflg => ?_⟩
  have hl := legalOpcodeOnly_iff.2 ⟨hla, hopc2, hslot, hflg⟩
  refine ⟨fun hfree => ?_, fun hv => ⟨_, exec_lookup_registered hc hl hv, lookupInfo_fields _ _⟩⟩
  simp only [exec, execLookup, onCallerPort_legal hc hl, lookupReg_eq_none.2 hfree]

end Sys2Proof.Machine
end

section
/-! PROOFS. The statements about exchanges (spec/42_exchange.md): what EX_CREATE and EX_READ answer on a caller port, and what
Prepare and Complete make of a slot. -/

namespace Sys2Proof.Machine

/-! ## Slots by number -/

/-- A slot of the table has a number below NX (10_state.md R42). -/
theorem slot_lt_nx {k : BitVec 4} {s : State} {x : Slot} (hn : s.slots.length = s.config.nx)
    (hx : s.slots[k.toNat]? = some x) : k.toNat < s.config.nx := by
  obtain ⟨hk, -⟩ := List.getElem?_eq_some_iff.1 hx
  omega

/-! ## EX_CREATE (R290) -/

theorem legalExCreate_iff {h : Header} : legalExCreate h = true ↔
    h.la = 0 ∧ h.flg.extractLsb' 2 2 = 0 ∧ (h.flg.getLsbD 1 = false → h.opc2 = 0) := by
  simp [legalExCreate, flgHighZero, flgExpValid, and_assoc, imp_iff_not_or]

/-- A slot is bound to a transaction from ARM until RETURN (10_state.md R45). -/
theorem inTransaction_eq_true {l : Life} : l.inTransaction = true ↔ l = .armed ∨ l = .resolved ∨ l = .timedOut := by
  cases l <;> simp [Life.inTransaction]

theorem inTransaction_eq_false {l : Life} : l.inTransaction = false ↔ l = .released ∨ l = .created := by
  cases l <;> simp [Life.inTransaction]

/-- EX_CREATE over an existing slot: its life is looked at before the value. -/
theorem exec_exCreate_of_slot {h : Header} {v : Operand} {s : State} {c : Nat} {x : Slot} (hc : s.issuer = .caller c)
    (hl : legalExCreate h = true) (hn : s.slots.length = s.config.nx) (hx : s.slots[h.slot.toNat]? = some x) :
    exec (.exCreate h v) s =
      if x.life.inTransaction then .next (raise (.caller c) .illegalState s)
      else (operandValue s.config.osdNameMax (s.config.family h.opc) v).elim (.next (raise (.caller c) .badValue s))
        fun val => .next (respondOk (.caller c) (writeSlot h.slot (createdSlot h val x) s)) := by
  simp only [exec, execExCreate, onCallerPort_legal hc hl, if_neg (Nat.not_le.2 (slot_lt_nx hn hx)), readSlot_eq_ok.2 hx,
    orFault_ok]
  cases operandValue s.config.osdNameMax (s.config.family h.opc) v <;> rfl

/-- Settles O24: the paths of EX_CREATE in the order of its checks. -/
theorem exCreateResult : Obligations.ExCreateResult := by
  intro h v s c hc hn
  refine ⟨fun reserved => onCallerPort_illegal hc (by rw [legalExCreate_iff]; tauto) _, fun hla hhigh hopc2 => ?_⟩
  have hl := legalExCreate_iff.2 ⟨hla, hhigh, hopc2⟩
  refine ⟨fun hk => ?_, fun x hx => ?_⟩
  · simp only [exec, execExCreate, onCallerPort_legal hc hl, if_pos hk]
  · rw [exec_exCreate_of_slot hc hl hn hx]
    refine ⟨fun busy => if_pos (inTransaction_eq_true.2 busy), fun free => ?_⟩
    rw [if_neg (Bool.eq_false_iff.1 (inTransaction_eq_false.2 free))]
    refine ⟨fun hv => ?_, fun val hv => ?_⟩
    · rw [hv, Option.elim_none]
    · rw [hv, Option.elim_some]
      rfl

/-! ## EX_READ (R291) -/

theorem legalExRead_iff {h : Header} : legalExRead h = true ↔ h.la = 0 ∧ h.opc = 0 ∧ h.opc2 = 0 ∧ h.flg = 0 := by
  simp [legalExRead, and_assoc]

/-- RPL_VAL is read only when RPL_VALID = 1, so answering with the reply does not fault. -/
theorem respondReply_eq (p : Port) (e : Result) (info : BitVec 24) (x : Slot) (s : State) :
    respondReply p e info x s = .next (respond p
      { result := e, info := info, tail := if x.rplValid then valueBytes x.rplVal else [] } s) := by
  unfold respondReply
  split
  · rw [readRplVal_eq_ok.2 ⟨‹_›, rfl⟩, orFault_ok]
  · rfl

/-- The bits of EX_READ's INFO: LIFE, ANS, EXP_VALID, RPL_VALID, a zero, EXP_OPC, REQ_OPC. -/
theorem exReadInfo_fields (x : Slot) :
    (exReadInfo x).extractLsb' 0 4 = x.life.code ∧ (exReadInfo x).getLsbD 4 = x.ans ∧
      (exReadInfo x).getLsbD 5 = x.expValid ∧ (exReadInfo x).getLsbD 6 = x.rplValid ∧ (exReadInfo x).getLsbD 7 = false ∧
      (exReadInfo x).extractLsb' 8 8 = x.expOpc ∧ (exReadInfo x).extractLsb' 16 8 = x.reqOpc := by
  rw [exReadInfo]
  refine ⟨?life, ?ans, ?expValid, ?rplValid, ?zero, ?expOpc, ?reqOpc⟩
  case life => rw [BitVec.extractLsb'_append_eq_right]
  case ans | expValid | rplValid | zero =>
    simp only [BitVec.getLsbD_append]
    simp [bit]
  case expOpc =>
    iterate 5 rw [BitVec.extractLsb'_append_eq_of_le (by decide)]
    rw [BitVec.extractLsb'_append_eq_right]
  case reqOpc =>
    iterate 5 rw [BitVec.extractLsb'_append_eq_of_le (by decide)]
    rw [BitVec.extractLsb'_append_eq_left]

/-- Settles O25: the paths of EX_READ in the order of its checks; none of them looks at LIFE (allowed in every
state). -/
theorem exReadResult : Obligations.ExReadResult := by
  intro h s c hc hn
  refine ⟨fun reserved => onCallerPort_illegal hc (by rw [legalExRead_iff]; tauto) _, fun hla hopc hopc2 hflg => ?_⟩
  have hl := legalExRead_iff.2 ⟨hla, hopc, hopc2, hflg⟩
  refine ⟨fun hk => ?_, fun x hx => ⟨exReadInfo x, ?_, exReadInfo_fields x⟩⟩
  · simp only [exec, execExRead, onCallerPort_legal hc hl, if_pos hk]
  · simp only [exec, execExRead, onCallerPort_legal hc hl, if_neg (Nat.not_le.2 (slot_lt_nx hn hx)), readSlot_eq_ok.2 hx,
      orFault_ok, respondReply_eq]

/-! ## Prepare (R292) -/

section
variable {ownLa d : LogicalAddr} {x : Slot} (hx : x.life ≠ .released)
include hx

theorem prepare_of_too_large (hs : serialize x.reqVal paramMax = none) : prepare ownLa d x = .ok none := by
  simp only [prepare, readReqVal_eq_ok.2 ⟨hx, rfl⟩, hs]

theorem prepare_of_serialized {b : List Byte} {r : TxReq} (hs : serialize x.reqVal paramMax = some b)
    (hr : buildTxReq ownLa d x.reqOpc b = .ok r) : prepare ownLa d x = .ok (some r) := by
  simp only [prepare, readReqVal_eq_ok.2 ⟨hx, rfl⟩, hs, hr]

end

/-- Settles O26: a written encoding has at most 14 bytes, so the request is built and holds it. -/
theorem prepareResult : Obligations.PrepareResult := by
  intro c d x hx
  refine ⟨prepare_of_too_large hx, fun b hs => ?_⟩
  obtain ⟨r, hr, request⟩ := buildTxReq_ok c.ownLa d x.reqOpc b (serialize_length hs)
  exact ⟨r, prepare_of_serialized hx hs hr, request⟩

/-! ## Complete (R293) -/

section
variable {cat : List (Byte × Family)} {x : Slot} {o : Byte} {p : List Byte}

theorem complete_of_unexpected (h : x.expValid = false ∨ o ≠ x.expOpc) :
    complete cat x o p = .ok (.error .unexpectedPayload) := by
  unfold complete
  split
  · rfl
  · exact if_pos (h.resolve_left ‹_›)

/-- A frame with the expected opcode completes the slot exactly as Deserialize answers. -/
theorem complete_of_expected (hv : x.expValid = true) (ho : o = x.expOpc) {r : Option Value}
    (hd : deserialize (catalogFamily cat x.expOpc) p = .ok r) :
    complete cat x o p =
      .ok (r.elim (.error .malformedPayload) fun v => .ok { x with rplVal := v, rplValid := true }) := by
  rw [complete, if_neg (by simp [hv]), if_neg (not_not.2 ho), hd]
  cases r <;> rfl

end

/-- Settles O27: the opcode decides first, then what Deserialize answers. -/
theorem completeResult : Obligations.CompleteResult := fun _ _ _ _ =>
  ⟨fun hv => complete_of_unexpected (.inl hv),
   fun _ ho => complete_of_unexpected (.inr ho),
   fun hv ho hd => complete_of_expected hv ho hd,
   fun _ hv ho hd => complete_of_expected hv ho hd⟩

end Sys2Proof.Machine
end

section
/-! PROOFS. The statements about the adapter's commands (spec/43_adapter.md): what EXCHANGE does before ARM and when it arms,
what TX_DONE, RECEIVED and TICK leave, and what the inbound path answers. -/

namespace Sys2Proof.Machine

/-! ## EXCHANGE (R321, R322) -/

theorem legalExchange_iff {h : Header} : legalExchange h = true ↔ h.opc = 0 ∧ h.opc2 = 0 ∧ h.flg = 0 := by
  simp [legalExchange, and_assoc]

/-- EXCHANGE of a slot below NX: ARM from IDLE, else the answer of BUSY_POLICY. -/
theorem exec_exchange_of_slot {h : Header} {w : Word32} {s : State} {c : Nat} (hc : s.issuer = .caller c)
    (hl : legalExchange h = true) (hn : h.slot.toNat < s.config.nx) :
    exec (.exchange h w) s =
      if s.st = .idle then arm c h.la h.slot w s
      else if s.config.busyPolicy = .failFast then .next (raise (.caller c) .busy s)
      else .next (setAdmitWait c { dest := h.la, slot := h.slot, wait := w } s) := by
  simp only [exec, execExchange, onCallerPort_legal hc hl, if_neg (Nat.not_le.2 hn)]
  cases s.config.busyPolicy <;> rfl

/-- Settles O28: the paths of EXCHANGE in the order of its checks. -/
theorem exchangeIssue : Obligations.ExchangeIssue := by
  intro h w s c hc
  refine ⟨fun reserved => onCallerPort_illegal hc (by rw [legalExchange_iff]; tauto) _, fun hopc hopc2 hflg => ?_⟩
  have hl := legalExchange_iff.2 ⟨hopc, hopc2, hflg⟩
  refine ⟨fun hk => ?_, fun hk => ?_⟩
  · simp only [exec, execExchange, onCallerPort_legal hc hl, if_pos hk]
  · rw [exec_exchange_of_slot hc hl hk]
    refine ⟨fun busy policy => ?_, fun busy policy => ?_, fun idle => if_pos idle⟩
    · rw [if_neg busy, if_pos policy]
    · rw [if_neg busy, if_neg (by simp [policy])]
      rfl

/-- ARM of a CREATED slot whose request Prepare builds (R322). -/
theorem arm_of_prepared {c : Nat} {d : LogicalAddr} {k : BitVec 4} {w : Word32} {s : State} {x : Slot} {r : TxReq}
    (hk : s.slots[k.toNat]? = some x) (hx : x.life = .created) (hp : prepare s.config.ownLa d x = .ok (some r)) :
    arm c d k w s = .next (armed c d k w x r s) := by
  simp only [arm, readSlot_eq_ok.2 hk, orFault_ok, hx, ne_eq, not_true_eq_false, if_false, hp]

/-- Settles O30: EXCHANGE from IDLE is ARM, Prepare builds the slot's request, and ARM then writes every register at once. -/
theorem exchangeArms : Obligations.ExchangeArms := by
  intro h w s c x b hc idle hopc hopc2 hflg hn hk hx hs
  have hlive : x.life ≠ .released := by simp [hx]
  obtain ⟨r, hp, request⟩ := (prepareResult s.config h.la x hlive).2 b hs
  refine ⟨r, request, ?_⟩
  rw [exec_exchange_of_slot hc (legalExchange_iff.2 ⟨hopc, hopc2, hflg⟩) hn, if_pos idle, arm_of_prepared hk hx hp]
  rfl

/-! ## TX_DONE (R323, R324) -/

theorem legalTxDone_iff {r : TxDoneRest} :
    legalTxDone r = true ↔ r.la = 0 ∧ r.opc = 0 ∧ r.opc2 = 0 ∧ r.slot = 0 ∧ r.flgHi = 0 := by
  simp [legalTxDone, and_assoc]

theorem onChannelTxDone_legal {r : TxDoneRest} {s : State} (hc : s.issuer = .channel) (hl : legalTxDone r = true) (k : Step) :
    onChannelTxDone r s k = k := by
  simp only [onChannelTxDone, hc, hl, if_true]

theorem readCurSlot_of_pending {s : State} (hst : s.st = .pending) : readCurSlot s = .ok s.curSlot :=
  readCurSlot_eq_ok.2 ⟨by simp [hst], rfl⟩

/-- With the timer stopped, the end of a transaction writes ST and CUR_VALID only. -/
theorem endTransaction_of_timer_stopped {s : State} (h : s.timerRun = false) (e : AdapterState) :
    endTransaction e s = { s with st := e, curValid := false } := by
  cases s
  cases h
  rfl

section
variable {s : State} (hx : s.txx ≠ none)
include hx

/-- With no transaction pending, a TX_DONE X only latches the transmit result. -/
theorem txDoneX_of_not_pending (hst : s.st ≠ .pending) (ok : Bool) :
    txDoneX ok s = .next { s with txx := none, txXResult := if ok then .ok else .fail } := by
  simp only [txDoneX, if_neg hx, if_pos hst]

theorem txDoneX_fail_of_pending (hst : s.st = .pending) :
    txDoneX false s = .next (endTransaction .failed { s with txx := none, txXResult := .fail }) := by
  simp only [txDoneX, if_neg hx, if_neg (not_not.2 hst), Bool.false_eq_true, if_false, if_true]

/-- A sent frame starts the reply wait of an exchange that expects an answer and resolves any other. -/
theorem txDoneX_ok_of_pending (hst : s.st = .pending) {x : Slot} (hk : s.slots[s.curSlot.toNat]? = some x) :
    txDoneX true s =
      if x.ans then .next { s with txx := none, txXResult := .ok, timerRun := true }
      else .next (writeSlot s.curSlot { x with life := .resolved }
        (endTransaction .resolved { s with txx := none, txXResult := .ok })) := by
  have hcur : readCurSlot { s with txx := none, txXResult := .ok } = .ok s.curSlot := readCurSlot_of_pending hst
  have hslot : readSlot s.curSlot { s with txx := none, txXResult := .ok } = .ok x := readSlot_eq_ok.2 hk
  simp only [txDoneX, if_neg hx, if_neg (not_not.2 hst), Bool.true_eq_false, if_false, if_true, hcur, hslot, orFault_ok,
    answerExpected]

end

/-- Settles O31: the cases of TX_DONE X by ST; clearing TIMER_RUN changes nothing, since the timer is not running. -/
theorem txDoneXResult : Obligations.TxDoneXResult := by
  intro r s x hc hla hopc hopc2 hslot hflg hx htimer hk
  have hl := legalTxDone_iff.2 ⟨hla, hopc, hopc2, hslot, hflg⟩
  have fail : exec (.txDoneXFail r) s = txDoneX false s := onChannelTxDone_legal hc hl _
  have ok : exec (.txDoneXOk r) s = txDoneX true s := onChannelTxDone_legal hc hl _
  refine ⟨fun pending => ?_, fun pending ans => ?_, fun pending ans => ?_, fun resolved => ?_⟩
  · rw [fail, txDoneX_fail_of_pending hx pending,
      endTransaction_of_timer_stopped (s := { s with txx := none, txXResult := .fail }) htimer]
  · rw [ok, txDoneX_ok_of_pending hx pending hk, if_neg (by simp [ans]),
      endTransaction_of_timer_stopped (s := { s with txx := none, txXResult := .ok }) htimer]
    rfl
  · rw [ok, txDoneX_ok_of_pending hx pending hk, if_pos ans]
  · have late : s.st ≠ .pending := by simp [resolved]
    exact ⟨fail.trans (txDoneX_of_not_pending hx late false), ok.trans (txDoneX_of_not_pending hx late true)⟩

/-- Settles O32: both results run the same pop of TXA. -/
theorem txDoneAResult : Obligations.TxDoneAResult := by
  intro r s q rest hc hla hopc hopc2 hslot hflg htxa
  have hl := legalTxDone_iff.2 ⟨hla, hopc, hopc2, hslot, hflg⟩
  have pop : txDoneA s = .next { s with txa := rest } := by rw [txDoneA, htxa, List.tail_cons]
  exact ⟨(onChannelTxDone_legal hc hl _).trans pop, (onChannelTxDone_legal hc hl _).trans pop⟩

/-! ## The inbound path (R329) -/

/-- With room in TXA, an answer of at most 14 bytes is pushed at the tail. -/
theorem pushReply_of_room {d : LogicalAddr} {o : Byte} {s : State} {p : List Byte}
    (hroom : s.txa.length ≠ s.config.txaDepth) (hp : p.length ≤ 14) :
    ∃ r, RequestOf s.config d o p r ∧ pushReply d o p s = .ok { s with txa := s.txa ++ [r] } := by
  obtain ⟨r, hr, request⟩ := buildTxReq_ok s.config.ownLa d o p hp
  exact ⟨r, request, by simp only [pushReply, if_neg hroom, hr]⟩

section
variable {la : LogicalAddr} {o : Byte} {s : State}

theorem inbound_of_no_handler (hv : (readReg o s).valid = false) : inbound la o s = .ok s := by
  simp only [inbound, lookupReg_eq_none.2 hv]

theorem inbound_of_silent (hv : (readReg o s).valid = true) (hr : (readReg o s).respond = false) :
    inbound la o s = .ok s := by
  simp only [inbound, lookupReg_eq_some.2 ⟨hv, rfl⟩, hr, if_true]

/-- A handler that answers: its value is read, and what Serialize writes is pushed. -/
theorem inbound_of_answering (hv : (readReg o s).valid = true) (hr : (readReg o s).respond = true) :
    inbound la o s = (serialize (readReg o s).val paramMax).elim (.ok s) fun p =>
      pushReply (if (readReg o s).bcast then broadcast else la) (readReg o s).rplOpc p s := by
  simp only [inbound, lookupReg_eq_some.2 ⟨hv, rfl⟩, hr, Bool.true_eq_false, if_false, readRegVal_eq_ok.2 ⟨hv, hr, rfl⟩]
  cases serialize (readReg o s).val paramMax <;> rfl

end

/-- Settles O35: the paths of the inbound path in the order of its checks; a written encoding has at most 14 bytes. -/
theorem inboundResult : Obligations.InboundResult := by
  intro la o s
  refine ⟨inbound_of_no_handler, inbound_of_silent, fun hv hr hs => ?_, fun p hv hr hs => ?_⟩
  · rw [inbound_of_answering hv hr, hs, Option.elim_none]
  · rw [inbound_of_answering hv hr, hs, Option.elim_some]
    exact ⟨fun full => if_pos full, fun room => pushReply_of_room room (serialize_length hs)⟩

/-! ## RECEIVED (R326 to R328) -/

theorem legalReceived_iff {h : Header} : legalReceived h = true ↔ h.opc = 0 ∧ h.opc2 = 0 ∧ h.slot = 0 := by
  simp [legalReceived, and_assoc]

theorem exec_received_illegal {h : Header} {b : List Byte} {s : State} (hc : s.issuer = .channel)
    (hl : ¬ legalReceived h = true) : exec (.received h b) s = .next (raise .channel .illegalCommand s) := by
  simp only [exec, execReceived, refuseCommand, hc, if_neg hl, if_true]

theorem exec_received_legal {h : Header} {b : List Byte} {s : State} (hc : s.issuer = .channel)
    (hl : legalReceived h = true) : exec (.received h b) s = receive .channel h.la b s := by
  simp only [exec, execReceived, hc, if_pos hl]

/-- INFO of RECEIVED is the length, which a unit keeps below 16 (R330). -/
theorem receivedInfo_eq {n : Nat} (hn : n ≤ 15) : receivedInfo n = BitVec.ofNat 24 n := by
  revert n
  decide

theorem correlates_of_not_pending {i : LogicalAddr} {s : State} (hst : s.st ≠ .pending) : correlates i s = .ok false := by
  rw [correlates, if_pos hst]

/-- Correlates of a pending transaction, as one test (R327). -/
theorem correlates_of_pending {i : LogicalAddr} {s : State} {x : Slot} (hst : s.st = .pending)
    (hk : s.slots[s.curSlot.toNat]? = some x) :
    correlates i s = .ok (x.ans && (i == s.curDest || i == broadcast)) := by
  have hdest : readCurDest s = .ok s.curDest := readCurDest_eq_ok.2 ⟨by simp [hst], rfl⟩
  simp only [correlates, hst, ne_eq, not_true_eq_false, if_false, currentSlot, readCurSlot_of_pending hst,
    readSlot_eq_ok.2 hk, hdest, answerExpected]

/-- A payload that Deserialize rejects completes no slot, whatever its opcode (R293). -/
theorem complete_of_undecodable {c : Config} {x : Slot} {o : Byte} {ps : List Byte}
    (hd : deserialize (c.family x.expOpc) ps = .ok none) : ∃ e, complete c.catalog x o ps = .ok (.error e) := by
  by_cases hun : x.expValid = false ∨ o ≠ x.expOpc
  · exact ⟨_, complete_of_unexpected hun⟩
  · obtain ⟨hexp, ho⟩ : x.expValid = true ∧ o = x.expOpc := by simpa using hun
    exact ⟨_, complete_of_expected hexp ho hd⟩

section
variable {p : Port} {i : LogicalAddr} {o : Byte} {ps : List Byte} {s : State}

theorem receive_of_uncorrelated (h : correlates i s = .ok false) :
    receive p i (o :: ps) s = inboundAndRespond p i o (o :: ps).length s := by
  simp only [receive, h, orFault_ok, Bool.false_eq_true, if_false]

/-- The conditions of R327 and R293 for a reply are those under which the frame correlates and Complete succeeds. -/
theorem Resolves.receive_eq {x : Slot} {v : Value} (h : Resolves s i o ps x v) :
    receive p i (o :: ps) s = .next (respond p { result := .none, info := receivedInfo (o :: ps).length, tail := [] }
      (resolveReply s.curSlot { x with rplVal := v, rplValid := true } s)) := by
  obtain ⟨hst, hk, hans, hi, hexp, ho, hv⟩ := h
  have hcor : correlates i s = .ok true := by
    rw [correlates_of_pending hst hk]
    simpa [hans, broadcast] using hi
  have hcomplete : complete s.config.catalog x o ps = .ok (.ok { x with rplVal := v, rplValid := true }) :=
    complete_of_expected hexp ho hv
  simp only [receive, hcor, orFault_ok, if_true, readCurSlot_of_pending hst, readSlot_eq_ok.2 hk, hcomplete]

/-- A frame on which Complete fails is noise, correlated or not: the inbound path is offered it (R328). -/
theorem receive_of_noise {x : Slot} {e : Result} (hst : s.st = .pending) (hk : s.slots[s.curSlot.toNat]? = some x)
    (hc : complete s.config.catalog x o ps = .ok (.error e)) :
    receive p i (o :: ps) s = inboundAndRespond p i o (o :: ps).length s := by
  have hcor := correlates_of_pending (i := i) hst hk
  cases hb : x.ans && (i == s.curDest || i == broadcast) with
  | false => exact receive_of_uncorrelated (hb ▸ hcor)
  | true =>
    rw [hb] at hcor
    simp only [receive, hcor, orFault_ok, if_true, readCurSlot_of_pending hst, readSlot_eq_ok.2 hk, hc]

/-- A frame after which the wait goes on does not correlate, or Complete fails. -/
theorem KeepsWaiting.receive_eq {x : Slot} (h : KeepsWaiting s i o ps x) :
    receive p i (o :: ps) s = inboundAndRespond p i o (o :: ps).length s := by
  obtain ⟨hst, hk, hans | ⟨hdest, hbroadcast⟩ | hexp | ho | hd⟩ := h
  · exact receive_of_uncorrelated (by simp [correlates_of_pending hst hk, hans])
  · have hother : i ≠ broadcast := hbroadcast
    exact receive_of_uncorrelated (by simp [correlates_of_pending hst hk, hdest, hother])
  · exact receive_of_noise hst hk (complete_of_unexpected (.inl hexp))
  · exact receive_of_noise hst hk (complete_of_unexpected (.inr ho))
  · obtain ⟨e, he⟩ := complete_of_undecodable (o := o) hd
    exact receive_of_noise hst hk he

end

/-- Settles O33: a frame is a reply, which resolves the transaction, or the inbound path is offered it. -/
theorem receivedResult : Obligations.ReceivedResult := by
  intro h b s hc
  refine ⟨fun reserved => exec_received_illegal hc (by rw [legalReceived_iff]; tauto), fun hopc hopc2 hslot hb => ?_⟩
  rw [exec_received_legal hc (legalReceived_iff.2 ⟨hopc, hopc2, hslot⟩)]
  refine ⟨fun footer => ?_, fun o p frame => ⟨fun x v reply => ?_, fun other t ht => ?_⟩⟩
  · rw [footer]
    rfl
  · subst frame
    rw [reply.receive_eq, receivedInfo_eq hb]
    rfl
  · subst frame
    have offered : receive .channel h.la (o :: p) s = inboundAndRespond .channel h.la o (o :: p).length s := by
      obtain idle | ⟨x, waiting⟩ := other
      · exact receive_of_uncorrelated (correlates_of_not_pending idle)
      · exact waiting.receive_eq
    rw [offered, inboundAndRespond, ht, orFault_ok, receivedInfo_eq hb]

/-! ## TICK (R331) -/

/-- A tick counts while the reply wait runs and ELAPSED is below WAIT_MS. -/
theorem tick_eq_ite (s : State) : tick s = if s.timerRun = true ∧ s.st = .pending ∧ s.elapsed.toNat < s.waitMs.toNat
    then { s with elapsed := s.elapsed + 1 } else s := by
  simp only [tick, BitVec.ult, Bool.and_eq_true, beq_iff_eq, decide_eq_true_eq, and_assoc]

/-- Settles O38: a TICK with every field 0 on the timer port is a tick. -/
theorem tickResult : Obligations.TickResult := by
  rintro h s hc rfl
  rw [← tick_eq_ite]
  have legal : legalAllZero ⟨0, 0, 0, 0, 0⟩ = true := rfl
  simp only [exec, execTick, hc, legal, if_true]

end Sys2Proof.Machine
end

section
/-! PROOFS. The statement about STATUS_READ (spec/44_status.md): every register it shows at its place in INFO. -/

namespace Sys2Proof.Machine

/-! ## STATUS_READ (R390) -/

theorem legalAllZero_iff {h : Header} :
    legalAllZero h = true ↔ h.la = 0 ∧ h.opc = 0 ∧ h.opc2 = 0 ∧ h.slot = 0 ∧ h.flg = 0 := by
  simp [legalAllZero, and_assoc]

/-- The fields of STATUS_READ's INFO wider than one bit: ST, CUR_DEST, CUR_SLOT, TX_X_RESULT and the length of TXA, which
saturates at 15. -/
theorem statusInfo_fields (s : State) :
    (statusInfo s).extractLsb' 0 3 = s.st.code ∧ (statusInfo s).extractLsb' 4 4 = statusDest s ∧
      (statusInfo s).extractLsb' 8 4 = statusSlot s ∧ (statusInfo s).extractLsb' 17 2 = s.txXResult.code ∧
      ((statusInfo s).extractLsb' 20 4).toNat = min s.txa.length 15 := by
  rw [statusInfo]
  refine ⟨?st, ?dest, ?slot, ?txXResult, ?txaLength⟩
  case st => rw [BitVec.extractLsb'_append_eq_right]
  case dest =>
    iterate 2 rw [BitVec.extractLsb'_append_eq_of_le (by decide)]
    rw [BitVec.extractLsb'_append_eq_right]
  case slot =>
    iterate 3 rw [BitVec.extractLsb'_append_eq_of_le (by decide)]
    rw [BitVec.extractLsb'_append_eq_right]
  case txXResult =>
    iterate 9 rw [BitVec.extractLsb'_append_eq_of_le (by decide)]
    rw [BitVec.extractLsb'_append_eq_right]
  case txaLength =>
    have fits : min s.txa.length 15 < 2 ^ 4 := by omega
    iterate 10 rw [BitVec.extractLsb'_append_eq_of_le (by decide)]
    rw [BitVec.extractLsb'_append_eq_left, BitVec.toNat_ofNat, Nat.mod_eq_of_lt fits]

/-- The single bits of STATUS_READ's INFO: CUR_VALID, TXX.valid, TIMER_RUN, the two sinks, REG_CONFLICT and a zero. -/
theorem statusInfo_bits (s : State) :
    (statusInfo s).getLsbD 3 = s.curValid ∧ (statusInfo s).getLsbD 12 = s.txx.isSome ∧
      (statusInfo s).getLsbD 13 = s.timerRun ∧ (statusInfo s).getLsbD 14 = s.replySink ∧
      (statusInfo s).getLsbD 15 = s.inboundSink ∧ (statusInfo s).getLsbD 16 = s.regConflict ∧
      (statusInfo s).getLsbD 19 = false := by
  simp only [statusInfo, BitVec.getLsbD_append]
  simp [bit]

/-- What STATUS_READ answers when every field is 0, in every state; nothing but the response changes. -/
theorem exec_statusRead_legal {h : Header} {s : State} {c : Nat} (hc : s.issuer = .caller c) (hl : legalAllZero h = true) :
    exec (.statusRead h) s = .next (respond (.caller c) { result := .none, info := statusInfo s, tail := [] } s) := by
  simp only [exec, execStatusRead, onCallerPort_legal hc hl]

/-- Settles O43: the check of the fields, then INFO read field by field. -/
theorem statusReadResult : Obligations.StatusReadResult := by
  intro h s c hc
  refine ⟨fun reserved => onCallerPort_illegal hc (by rw [legalAllZero_iff]; tauto) _, ?_⟩
  rintro rfl
  obtain ⟨hst, hdest, hslot, htxXResult, htxaLength⟩ := statusInfo_fields s
  obtain ⟨hcurValid, htxx, htimerRun, hreplySink, hinboundSink, hregConflict, hzero⟩ := statusInfo_bits s
  exact ⟨statusInfo s, exec_statusRead_legal hc rfl, hst, hcurValid, hdest, hslot, htxx, htimerRun, hreplySink, hinboundSink,
    hregConflict, htxXResult, hzero, htxaLength⟩

end Sys2Proof.Machine
end

section
/-! PROOFS. The statements about the encoding (spec/30_encoding.md): commands and frames decode to what was encoded and to nothing
else, the words the spec writes out, and the bytes of operands and responses. -/

namespace Sys2Proof.Machine

/-! ## Commands (R155 to R160, R167) -/

section
variable {cat : List (Byte × Family)}

/-- A command is its CMDW and what its operands decode to. -/
theorem decodeCommand_eq_ok {bs : List Byte} {r : Instr × List Byte} :
    decodeCommand cat bs = .ok r ↔
      ∃ op h operands, bs = headerBytes op h ++ operands ∧ decodeOperands cat op h operands = some r := by
  constructor
  · intro hd
    unfold decodeCommand at hd
    split at hd
    · cases hd
    · rename_i w operands hw
      split at hd
      · cases hd
      · cases hd
        refine ⟨cmdwOp w, cmdwHeader w, operands, ?_, ‹_›⟩
        rw [headerBytes, cmdw_cmdwHeader]
        exact takeWord_some hw
  · rintro ⟨op, h, operands, rfl, hd⟩
    obtain ⟨hop, hhdr⟩ := cmdw_fields op h
    rw [decodeCommand, headerBytes, takeWord_be]
    simp only [BitVec.ofNat_toNat, BitVec.setWidth_eq, hop, hhdr, hd]

theorem decodeCommand_headerBytes {op : BitVec 4} {h : Header} {operands : List Byte} {r : Instr × List Byte}
    (hd : decodeOperands cat op h operands = some r) : decodeCommand cat (headerBytes op h ++ operands) = .ok r :=
  decodeCommand_eq_ok.2 ⟨op, h, operands, rfl, hd⟩

/-- The four TX_DONE rows by their tag and success bit (R157). -/
def txDoneInstr (r : TxDoneRest) : Bool → Bool → Instr
  | false, false => .txDoneXFail r
  | false, true => .txDoneXOk r
  | true, false => .txDoneAFail r
  | true, true => .txDoneAOk r

theorem encode_txDoneInstr (r : TxDoneRest) (tag ok : Bool) :
    encode (txDoneInstr r tag ok) = headerBytes 11 (txDoneHeader r (BitVec.ofBool tag) (BitVec.ofBool ok)) := by
  cases tag <;> cases ok <;> rfl

theorem wellFormed_txDoneInstr (r : TxDoneRest) (tag ok : Bool) : wellFormed cat (txDoneInstr r tag ok) = true := by
  cases tag <;> cases ok <;> rfl

theorem decodeOperands_txDone (h : Header) (bs : List Byte) :
    decodeOperands cat 11 h bs = some (txDoneInstr (txDoneRest h) (h.flg.getLsbD 1) (h.flg.getLsbD 0), bs) := by
  show (match h.flg.getLsbD 1, h.flg.getLsbD 0 with
    | false, false => _ | false, true => _ | true, false => _ | true, true => _) = _
  split <;> rename_i tag ok <;> rw [tag, ok] <;> rfl

theorem decodeCommand_txDone (r : TxDoneRest) (tag ok : Bool) (rest : List Byte) :
    decodeCommand cat (encode (txDoneInstr r tag ok) ++ rest) = .ok (txDoneInstr r tag ok, rest) := by
  obtain ⟨hr, htag, hok⟩ := txDoneHeader_fields r (BitVec.ofBool tag) (BitVec.ofBool ok)
  rw [encode_txDoneInstr, decodeCommand_headerBytes (decodeOperands_txDone _ rest), hr, htag, hok]
  simp

theorem decodeOperands_exchange (h : Header) (bs : List Byte) :
    decodeOperands cat 2 h bs = (takeWord bs).map fun (w, rest) => (.exchange h w, rest) := rfl

/-- Settles O3: CMDW is read back as written, and the operand of each row is taken as its row writes it. -/
theorem commandDecodeEncode : Obligations.CommandDecodeEncode := by
  intro cat i rest hw hc
  cases i with
  | exCreate h v | codecSer h v =>
    rw [encode, List.append_assoc]
    exact decodeCommand_headerBytes (congrArg (Option.map _) (takeValue_operandBytes hw rest))
  | announce h v =>
    rw [encode, List.append_assoc]
    refine decodeCommand_headerBytes ?_
    rw [wellFormed] at hw
    show (if h.flg.getLsbD 0 then _ else _) = _
    split at hw
    · rw [if_pos ‹_›, takeValue_operandBytes hw rest, Option.map_some]
    · obtain rfl : v = .none := by simpa using hw
      rw [if_neg ‹_›]
      rfl
  | exchange h w =>
    rw [encode, List.append_assoc]
    have word : takeWord (be 4 w.toNat ++ rest) = some (w, rest) := by simp [takeWord_be]
    exact decodeCommand_headerBytes (by rw [decodeOperands_exchange, word, Option.map_some])
  | codecDes h b | received h b =>
    rw [encode, List.append_assoc]
    have len : b.length = h.flg.toNat := by simpa [wellFormed] using hw
    have data : takeBytes h.flg.toNat (b ++ rest) = some (b, rest) := len ▸ takeBytes_append b rest
    exact decodeCommand_headerBytes (congrArg (Option.map _) data)
  | txDoneXFail r => exact decodeCommand_txDone r false false rest
  | txDoneXOk r => exact decodeCommand_txDone r false true rest
  | txDoneAFail r => exact decodeCommand_txDone r true false rest
  | txDoneAOk r => exact decodeCommand_txDone r true true rest
  | exRead | revoke | lookup | statusRead | tick | reserved0 | reservedD | reservedE | reservedF =>
    exact decodeCommand_headerBytes rfl
  | _ => cases hc

/-- What a header and the bytes after it decode to is written as that header and the operand that was taken. -/
theorem decodeOperands_encode {op : BitVec 4} {h : Header} {bs rest : List Byte} {i : Instr}
    (hd : decodeOperands cat op h bs = some (i, rest)) :
    headerBytes op h ++ bs = encode i ++ rest ∧ wellFormed cat i = true := by
  have opIs : ∀ {k : Nat}, op.toNat = k → op = BitVec.ofNat 4 k := by
    rintro _ rfl
    simp
  have taken : ∀ {j : Instr}, some (j, bs) = some (i, rest) → headerBytes op h = encode j → wellFormed cat j = true →
      headerBytes op h ++ bs = encode i ++ rest ∧ wellFormed cat i = true := by
    rintro j ⟨⟩ hj hw
    exact ⟨by rw [hj], hw⟩
  have mapped : ∀ {α : Type} {x : Option (α × List Byte)} {f : α → Instr},
      x.map (fun (a, rest) => (f a, rest)) = some (i, rest) →
      (∀ a, x = some (a, rest) → ∃ w, bs = w ++ rest ∧ headerBytes op h ++ w = encode (f a) ∧ wellFormed cat (f a) = true) →
      headerBytes op h ++ bs = encode i ++ rest ∧ wellFormed cat i = true := by
    intro α x f e hf
    obtain ⟨⟨a, r⟩, hx, e⟩ := Option.map_eq_some_iff.1 e
    cases e
    obtain ⟨w, rfl, hw, hwf⟩ := hf a hx
    exact ⟨by rw [← hw, List.append_assoc], hwf⟩
  unfold decodeOperands at hd
  split at hd
  case h_2 hop | h_9 hop =>
    refine mapped hd fun v hv => ?_
    obtain ⟨hbs, hfit⟩ := takeValue_some hv
    exact ⟨_, hbs, by rw [opIs hop]; rfl, hfit⟩
  case h_3 hop =>
    exact mapped hd fun w hw => ⟨_, takeWord_some hw, by rw [opIs hop]; rfl, rfl⟩
  case h_5 hop => -- ANNOUNCE: an operand only under FLG[0]
    split at hd
    · refine mapped hd fun v hv => ?_
      obtain ⟨hbs, hfit⟩ := takeValue_some hv
      exact ⟨_, hbs, by rw [opIs hop]; rfl, by rw [wellFormed, if_pos ‹_›]; exact hfit⟩
    · exact taken hd (by rw [opIs hop, encode, operandBytes, List.append_nil]; rfl) (by rw [wellFormed, if_neg ‹_›]; rfl)
  case h_10 hop | h_11 hop =>
    refine mapped hd fun b hb => ?_
    obtain ⟨hbs, hlen⟩ := takeBytes_some hb
    exact ⟨b, hbs, by rw [opIs hop]; rfl, decide_eq_true hlen⟩
  case h_12 hop => -- TX_DONE: the header is that of its own tag and success bit
    have row := (decodeOperands_txDone h bs (cat := cat)).symm.trans hd
    exact taken row (by rw [encode_txDoneInstr, txDoneHeader_txDoneRest, opIs hop]; rfl) (wellFormed_txDoneInstr _ _ _)
  case h_16 => -- the default row: no OP below 15
    have hop : op.toNat = 15 := by
      have := op.isLt
      grind only
    exact taken hd (by rw [opIs hop]; rfl) rfl
  all_goals exact taken hd (by rw [opIs ‹_›]; rfl) rfl

end

/-- Settles O4: each row of the OP map takes exactly the operand that its instruction writes. -/
theorem commandEncodeDecode : Obligations.CommandEncodeDecode := by
  intro cat bs rest i hd
  obtain ⟨op, h, operands, rfl, ho⟩ := decodeCommand_eq_ok.1 hd
  obtain ⟨bytes, wf⟩ := decodeOperands_encode ho
  exact ⟨bytes, wf, decodeCommand_isCommand hd⟩

/-! ## Frames (R140, R153) -/

/-- The row of an opcode: its opcode, its parameters, and that no other row has it. -/
theorem frameInstr_row (o : Byte) (p : List Byte) : FrameRow o p (frameInstr o p) := by
  have pick : ∀ {k : Byte} {i j : Instr}, (o = k → FrameRow o p i) → (o ≠ k → FrameRow o p j) →
      FrameRow o p (if o = k then i else j) := by
    intro k i j hi hj
    split
    · exact hi ‹_›
    · exact hj ‹_›
  unfold frameInstr
  iterate 15 refine pick (fun ho => ⟨ho, rfl⟩) fun _ => ?_
  refine ⟨rfl, rfl, ?_⟩
  simp only [List.mem_cons, List.not_mem_nil, or_false, not_or]
  and_intros <;> assumption

theorem FrameRow.encode_eq {o : Byte} {p : List Byte} {i : Instr} (h : FrameRow o p i) : encode i = o :: p := by
  cases i <;> simp only [FrameRow] at h
  case otherOpcode => obtain ⟨rfl, rfl, -⟩ := h; rfl
  all_goals obtain ⟨rfl, rfl⟩ := h; rfl

theorem FrameRow.wellFormed_of_length_le {o : Byte} {p : List Byte} {i : Instr} (h : FrameRow o p i) (hp : p.length ≤ 14)
    (cat : List (Byte × Family)) : wellFormed cat i = true := by
  cases i <;> simp only [FrameRow] at h
  case otherOpcode =>
    obtain ⟨rfl, rfl, hnot⟩ := h
    rename_i o _
    have other : namedOpcodes.contains o = false := by
      rw [List.contains_eq_mem]
      exact decide_eq_false hnot
    simp only [wellFormed, paramsFit, paramMax, hp, other, decide_true, Bool.not_false, Bool.and_self]
  all_goals
    obtain ⟨-, rfl⟩ := h
    exact decide_eq_true hp

/-- A frame decodes to the row of its opcode. -/
theorem decodeFrame_row {o : Byte} {p : List Byte} {i : Instr} (hd : decodeFrame (o :: p) = .ok i) : FrameRow o p i := by
  rw [decodeFrame] at hd
  split at hd
  · cases hd
  · cases hd
    exact frameInstr_row o p

/-- A frame instruction is the row of its opcode, and its parameters fit. -/
theorem frame_row_of_wellFormed {cat : List (Byte × Family)} {i : Instr} (hw : wellFormed cat i = true)
    (hc : i.isCommand = false) : ∃ o p, FrameRow o p i ∧ p.length ≤ 14 := by
  cases i <;> cases hc -- the frames are left
  case otherOpcode o p =>
    obtain ⟨hp, ho⟩ : p.length ≤ 14 ∧ o ∉ namedOpcodes := by simpa [wellFormed, paramsFit] using hw
    exact ⟨o, p, ⟨rfl, rfl, ho⟩, hp⟩
  all_goals exact ⟨_, _, ⟨rfl, rfl⟩, of_decide_eq_true hw⟩

/-- An opcode has one row (R153). -/
theorem FrameRow.eq_frameInstr {o : Byte} {p : List Byte} {i : Instr} (h : FrameRow o p i) : i = frameInstr o p := by
  cases i <;> simp only [FrameRow] at h
  case otherOpcode =>
    obtain ⟨rfl, rfl, hnot⟩ := h
    simp only [List.mem_cons, List.not_mem_nil, or_false, not_or] at hnot
    simp only [frameInstr, hnot, if_false]
  all_goals
    obtain ⟨rfl, rfl⟩ := h
    rfl

/-- Settles O5: a well-formed frame is the one row of its opcode. -/
theorem frameDecodeEncode : Obligations.FrameDecodeEncode := by
  intro cat i hw hc
  obtain ⟨o, p, row, hp⟩ := frame_row_of_wellFormed hw hc
  rw [row.encode_eq, decodeFrame_cons hp, row.eq_frameInstr]

/-- Settles O6: an opcode byte and at most 14 parameters decode to the opcode's row, which writes them back. -/
theorem frameBytesDecode : Obligations.FrameBytesDecode := by
  intro cat b
  cases b with
  | nil => exact ⟨fun _ => rfl, by simp, by simp⟩
  | cons o p =>
    refine ⟨by simp, fun _ hlen => ?_, fun hlen => if_pos hlen⟩
    have hp : p.length ≤ 14 := Nat.le_of_succ_le_succ hlen
    have row := frameInstr_row o p
    exact ⟨_, decodeFrame_cons hp, row.encode_eq, row.wellFormed_of_length_le hp cat, frameInstr_isCommand o p⟩

/-! ## The words and the catalog the spec writes out (R153, R155) -/

/-- An opcode the catalog does not list carries RAW (R153). -/
theorem catalogFamily_of_not_listed {cat : List (Byte × Family)} {o : Byte} (h : o ∉ cat.map Prod.fst) :
    catalogFamily cat o = .raw := by
  induction cat with
  | nil => rfl
  | cons e rest ih =>
    obtain ⟨hne, hrest⟩ : o ≠ e.1 ∧ o ∉ rest.map Prod.fst := by simpa using h
    rw [catalogFamily, if_neg hne, ih hrest]

/-- Settles O1: the words are evaluated; the rows of R153 are those the decoder gives, and the catalog lists no others. -/
theorem writtenWordsDecode : Obligations.WrittenWordsDecode := by
  refine ⟨?_, ?_, ?_, ?_, ?_, ?_, ?_, ?_, ?_, ?_, ?_, ?_, ?_, ?_, ?_, fun _ _ _ => decodeFrame_row, ?_,
    fun _ => catalogFamily_of_not_listed (cat := defaultCatalog)⟩
  all_goals decide

/-! ## Operands and responses (R158, R161) -/

/-- The four bytes of a 32-bit word, as slices of it (00_scope.md R10). -/
theorem be_four_toNat {n : Nat} (v : BitVec n) :
    be 4 v.toNat = [v.extractLsb' 24 8, v.extractLsb' 16 8, v.extractLsb' 8 8, v.extractLsb' 0 8] := rfl

/-- A number below 2^k has no bits from k on. -/
theorem extractLsb'_eq_zero {n k : Nat} (v : BitVec n) (l : Nat) (hv : v.toNat < 2 ^ k) : v.extractLsb' k l = 0 := by
  apply BitVec.eq_of_toNat_eq
  rw [BitVec.extractLsb'_toNat, Nat.shiftRight_eq_div_pow, Nat.div_eq_of_lt hv]
  simp

/-- Settles O7: RESPW splits into its fields, and bytes above a value's width are 0; the code tables are evaluated. -/
theorem responseLayout : Obligations.ResponseLayout := by
  refine ⟨fun r => ?respw, fun v8 v16 v24 b0 b1 b2 b => ?values, by decide, by decide, by decide, by decide, by decide⟩
  case respw =>
    have result : (respw r).extractLsb' 24 8 = r.result.code := by
      rw [respw, BitVec.extractLsb'_append_eq_left]
    have info : ∀ k, k + 8 ≤ 24 → (respw r).extractLsb' k 8 = r.info.extractLsb' k 8 := by
      intro k hk
      rw [respw, BitVec.extractLsb'_append_eq_of_add_le hk]
    rw [responseBytes, be_four_toNat, result, info 16 (by omega), info 8 (by omega), info 0 (by omega)]
    simp only [List.cons_append, List.nil_append]
  case values =>
    have high : ∀ {n : Nat} (v : BitVec n) (k : Nat), n ≤ k → v.extractLsb' k 8 = 0 := fun v k hk =>
      extractLsb'_eq_zero v 8 (v.isLt.trans_le (Nat.pow_le_pow_right (by omega) hk))
    have byte : valueBytes (.version v8) = [0, 0, 0, v8] := by
      rw [valueBytes, be_four_toNat, high v8 24 (by omega), high v8 16 (by omega), high v8 8 (by omega),
        BitVec.extractLsb'_eq_self]
    refine ⟨rfl, byte, byte, byte, ?_, ?_, rfl, fun hb => ⟨BitVec.ofNat 8 b.length, ?_, rfl, rfl⟩⟩
    · rw [valueBytes, be_four_toNat, high v16 24 (by omega), high v16 16 (by omega)]
    · rw [valueBytes, be_four_toNat, high v24 24 (by omega)]
    · rw [BitVec.toNat_ofNat, Nat.mod_eq_of_lt (by omega)]

/-- A number fits in w bits when its other bits are 0, and is then its low w bits (R158). -/
theorem narrow_eq_ite {w l : Nat} (hl : w + l = 32) (v : Word32) :
    narrow w v = if v.extractLsb' w l = 0 then some (v.extractLsb' 0 w) else none := by
  have fits : v.toNat < 2 ^ w ↔ v.extractLsb' w l = 0 := by
    refine ⟨extractLsb'_eq_zero v l, fun h => ?_⟩
    have quotient : v.toNat / 2 ^ w < 2 ^ l := by
      rw [Nat.div_lt_iff_lt_mul (by positivity), Nat.mul_comm, ← pow_add, hl]
      exact v.isLt
    have zero := congrArg BitVec.toNat h
    rw [BitVec.extractLsb'_toNat, Nat.shiftRight_eq_div_pow, Nat.mod_eq_of_lt quotient] at zero
    exact (Nat.div_eq_zero_iff.1 zero).resolve_left (by positivity)
  rw [narrow, BitVec.setWidth_eq_extractLsb' (by omega)]
  simp only [fits]

/-- Settles O8: the numeric families narrow the word; the byte families look at the length. -/
theorem valueOperandTable : Obligations.ValueOperandTable := by
  intro m v b
  refine ⟨rfl, ?version, ?powerStatus, ?uiKey, ?physAddr, ?vendorId, ?language, rfl, rfl⟩
  case version | powerStatus | uiKey =>
    rw [operandValue, narrow_eq_ite (l := 24) rfl]
    split <;> rfl
  case physAddr =>
    rw [operandValue, narrow_eq_ite (l := 16) rfl]
    split <;> rfl
  case vendorId =>
    rw [operandValue, narrow_eq_ite (l := 8) rfl]
    split <;> rfl
  case language =>
    split
    · match b, ‹b.length = 3› with
      | [_, _, _], _ => rfl
    · unfold operandValue
      split <;> simp_all

end Sys2Proof.Machine
end

section
/-! PROOFS. The statements about the adapter's transaction (spec/43_adapter.md): when ARM arms, what a received frame does, what the
inbound path sees, how the wait is bounded, and when RETURN completes. -/

namespace Sys2Proof.Machine

/-! ## ARM and ADMIT (R322) -/

section
variable {c : Nat} {d : LogicalAddr} {k : BitVec 4} {w : Word32} {s : State} {x : Slot}

theorem arm_of_wrong_life (hk : s.slots[k.toNat]? = some x) (hx : x.life ≠ .created) :
    arm c d k w s = .next (raise (.caller c) .illegalState (setPhase c .ready s)) := by
  simp only [arm, readSlot_eq_ok.2 hk, orFault_ok, if_pos hx]

theorem arm_of_too_large (hk : s.slots[k.toNat]? = some x) (hx : x.life = .created)
    (hp : prepare s.config.ownLa d x = .ok none) :
    arm c d k w s = .next (raise (.caller c) .payloadTooLarge (setPhase c .ready s)) := by
  simp only [arm, readSlot_eq_ok.2 hk, orFault_ok, hx, ne_eq, not_true_eq_false, if_false, hp]

end

/-- ADMIT is ARM with the latched operands, taken only from IDLE. -/
theorem callerStep_of_admitWait {c : Nat} {q : CallerPort} {s : State} (hq : s.ports[c]? = some q)
    (hp : q.phase = .admitWait) :
    callerStep c s = if s.st = .idle then arm c q.latch.dest q.latch.slot q.latch.wait s else .next s := by
  simp only [callerStep, hq, hp, admitStep, readLatch_eq_ok.2 ⟨hp, rfl⟩, orFault_ok]

/-- Settles O29: the checks of ARM in their order; of a CREATED slot Prepare builds the request or says it is too large. -/
theorem armResult : Obligations.ArmResult := by
  refine ⟨fun c d k w s x hk => ⟨arm_of_wrong_life hk, fun hx hs => ?_, fun b hx hs => ?_⟩,
    fun c q s => callerStep_of_admitWait⟩
  all_goals have hlive : x.life ≠ .released := by simp [hx]
  · exact arm_of_too_large hk hx ((prepareResult s.config d x hlive).1 hs)
  · obtain ⟨r, hp, request⟩ := (prepareResult s.config d x hlive).2 b hs
    exact ⟨r, request, arm_of_prepared hk hx hp⟩

/-! ## Received frames (R326, R330; 30_encoding.md R142) -/

/-- A frame instruction is the reception of its own bytes from the initiator of the unit. -/
theorem exec_frame {i : Instr} {s : State} (hc : i.isCommand = false) :
    exec i s = receive .channel s.rxInit (encode i) s := by
  cases i <;> cases hc <;> rfl

/-- Settles O34: both sides are the reception of the frame's bytes. -/
theorem frameRunsAsReceived : Obligations.FrameRunsAsReceived := by
  intro i s hc hi
  rw [exec_frame hc, exec_received_legal hi rfl]

theorem Receives.exec_eq {i : Instr} {s : State} {la : LogicalAddr} {b : List Byte} (h : Receives i s la b) :
    exec i s = receive .channel la b s := by
  obtain ⟨hd, rfl, hi, hopc, hopc2, hslot, rfl⟩ | ⟨hc, rfl, rfl⟩ := h
  · exact exec_received_legal hi (legalReceived_iff.2 ⟨hopc, hopc2, hslot⟩)
  · exact exec_frame hc

theorem inbound_outputs {i : LogicalAddr} {o : Byte} {s t : State} (h : inbound i o s = .ok t) : t.outputs = s.outputs := by
  obtain rfl | ⟨r, -, rfl⟩ := inbound_eq_ok h <;> rfl

/-- Whatever became of the frame, it is answered once, with its length. -/
theorem ReceiveEffect.outputs {p : Port} {i : LogicalAddr} {s t : State} {b : List Byte} (h : ReceiveEffect p i s b t) :
    t.outputs = s.outputs ++ [⟨p, ⟨.none, receivedInfo b.length, []⟩⟩] := by
  cases h with
  | footer => rfl
  | reply => rfl
  | other _ _ _ h => rw [respond_outputs, inbound_outputs h]

/-- Settles O36: a reception never faults under the invariant, and each of its outcomes gives the one answer. -/
theorem consumedLength : Obligations.ConsumedLength := by
  intro i s la b hinv hrec hb
  obtain ⟨t, ht, -⟩ := receive_keeps_inv hinv .channel la b
  exact ⟨t, hrec.exec_eq.trans ht, receivedInfo_eq hb ▸ (receive_effect ht).outputs⟩

/-! ## Independence of the inbound path (R338) -/

/-- Of the state, the push reads TXA and the configuration only. -/
theorem pushReply_congr {d : LogicalAddr} {o : Byte} {p : List Byte} {s s' : State} (htxa : s.txa = s'.txa)
    (hcfg : s.config = s'.config) :
    pushReply d o p s' = (pushReply d o p s).map fun t => { s' with txa := t.txa } := by
  simp only [pushReply, htxa, hcfg]
  split
  · simp only [Except.map, htxa]
  · split <;> rfl

/-- The inbound path gives the same TXA in states that agree on the registry, TXA and the configuration. -/
theorem inbound_congr {la : LogicalAddr} {o : Byte} {s s' : State} (hreg : s.reg = s'.reg) (htxa : s.txa = s'.txa)
    (hcfg : s.config = s'.config) : inbound la o s' = (inbound la o s).map fun t => { s' with txa := t.txa } := by
  have entry : readReg o s = readReg o s' := by simp only [readReg, hreg]
  have same : (Except.ok s : Except Fault State).map (fun t => { s' with txa := t.txa }) = .ok s' := by
    simp only [Except.map, htxa]
  cases hv : (readReg o s).valid with
  | false => rw [inbound_of_no_handler hv, inbound_of_no_handler (entry ▸ hv), same]
  | true =>
    cases hr : (readReg o s).respond with
    | false => rw [inbound_of_silent hv hr, inbound_of_silent (entry ▸ hv) (entry ▸ hr), same]
    | true =>
      rw [inbound_of_answering hv hr, inbound_of_answering (entry ▸ hv) (entry ▸ hr), entry]
      cases serialize (readReg o s').val paramMax with
      | none => exact same.symm
      | some p => exact pushReply_congr htxa hcfg

/-- Settles O37: the only write is the push, and it depends on the entry, TXA and the configuration. -/
theorem inboundIndependence : Obligations.InboundIndependence := by
  refine ⟨fun la o s t h => ?_, fun la o s s' t hreg htxa hcfg h => ?_⟩
  · obtain rfl | ⟨r, -, rfl⟩ := inbound_eq_ok h <;> rfl
  · rw [inbound_congr hreg htxa hcfg, h]
    rfl

/-! ## The timer (R331, R332, R335) -/

theorem timeoutEnabled_iff {s : State} :
    timeoutEnabled s = true ↔ s.st = .pending ∧ s.timerRun = true ∧ s.waitMs.toNat ≤ s.elapsed.toNat := by
  simp only [timeoutEnabled, BitVec.ule, Bool.and_eq_true, beq_iff_eq, decide_eq_true_eq, and_assoc]

/-- In the reply wait a tick counts one up to WAIT_MS and leaves the wait as it is. -/
theorem tick_of_running {s : State} (hst : s.st = .pending) (hrun : s.timerRun = true) :
    (tick s).st = .pending ∧ (tick s).timerRun = true ∧ (tick s).waitMs = s.waitMs ∧
      (s.elapsed.toNat ≤ s.waitMs.toNat → (tick s).elapsed.toNat = min (s.elapsed.toNat + 1) s.waitMs.toNat) := by
  rw [tick_eq_ite]
  split
  · refine ⟨hst, hrun, rfl, fun _ => ?_⟩
    have := s.waitMs.isLt
    show (s.elapsed + 1).toNat = _
    rw [BitVec.toNat_add, show (1 : Word32).toNat = 1 from rfl]
    omega
  · rename_i hlt
    refine ⟨hst, hrun, rfl, fun hle => ?_⟩
    have : ¬ s.elapsed.toNat < s.waitMs.toNat := fun h => hlt ⟨hrun, hst, h⟩
    omega

/-- After n ticks of the reply wait. -/
theorem iterate_tick_of_running {s : State} (hst : s.st = .pending) (hrun : s.timerRun = true)
    (hle : s.elapsed.toNat ≤ s.waitMs.toNat) (n : Nat) :
    (tick^[n] s).st = .pending ∧ (tick^[n] s).timerRun = true ∧ (tick^[n] s).waitMs = s.waitMs ∧
      (tick^[n] s).elapsed.toNat = min (s.elapsed.toNat + n) s.waitMs.toNat := by
  induction n with
  | zero => exact ⟨hst, hrun, rfl, by simpa using hle⟩
  | succ n ih =>
    obtain ⟨ihst, ihrun, ihwait, ihel⟩ := ih
    obtain ⟨tst, trun, twait, tel⟩ := tick_of_running ihst ihrun
    rw [Function.iterate_succ_apply']
    refine ⟨tst, trun, twait.trans ihwait, ?_⟩
    rw [ihwait, ihel] at tel
    omega

/-- Settles O39: each tick counts one until WAIT_MS, where TIMEOUT is enabled. -/
theorem timeoutAfterWait : Obligations.TimeoutAfterWait := by
  intro s n hinv hst hrun
  obtain ⟨hst', hrun', hwait, hel⟩ := iterate_tick_of_running hst hrun hinv.elapsed n
  refine ⟨hel, ?_⟩
  rw [timeoutEnabled_iff, hwait, hel]
  simp only [hst', hrun', true_and]
  omega

/-- Settles O40: enabled, the turn is the TIMEOUT step on the slot of the pending transaction. -/
theorem timeoutResult : Obligations.TimeoutResult := by
  intro s x hk
  refine ⟨fun hst hrun hle => ?_, fun hno => ?_⟩
  · rw [timerTimeout, if_pos (timeoutEnabled_iff.2 ⟨hst, hrun, hle⟩)]
    simp only [timeoutStep, readCurSlot_of_pending hst, readSlot_eq_ok.2 hk, orFault_ok]
    rfl
  · refine if_neg fun he => ?_
    obtain ⟨hst, hrun, hle⟩ := timeoutEnabled_iff.1 he
    obtain hst' | hrun' | hlt := hno
    · exact hst' hst
    · cases hrun.symm.trans hrun'
    · omega

/-! ## RETURN (R333, R334) -/

theorem terminal_iff {e : AdapterState} : e.terminal = true ↔ e = .resolved ∨ e = .timedOut ∨ e = .failed := by
  cases e <;> simp [AdapterState.terminal]

/-- Settles O41: with TXX empty the transmit result is known; the invariant's clauses for each terminal ST leave the rows. -/
theorem combineAtReturn : Obligations.CombineAtReturn := by
  refine ⟨⟨rfl, rfl, rfl, rfl⟩, fun s c x hinv he hk => ?_⟩
  obtain ⟨hterm, htxx, -⟩ := returnEnabled_eq_true.1 he
  have hterm := terminal_iff.1 hterm
  have hidle : s.st ≠ .idle := by rintro e; simp [e] at hterm
  have ht := hinv.transaction x hidle hk
  have known : s.txXResult ≠ .notYet := fun e => by simpa [htxx] using hinv.txxPending.2 ⟨hidle, e⟩
  have result := hinv.txResult
  have reply := ht.reply
  obtain hst | hst | hst := hterm <;> rw [hst] at result reply
  case inl => -- RESOLVED: a reply came, or the exchange expected none and was sent
    simp only [true_and] at reply
    cases htx : s.txXResult with
    | notYet => exact absurd htx known
    | fail =>
      have expected : x.ans = true := by
        by_contra hans
        cases htx.symm.trans (ht.fireAndForget hst (Bool.eq_false_iff.2 hans))
      exact .inr (.inl ⟨rfl, hst, reply.2 expected⟩)
    | ok =>
      cases hans : x.ans with
      | false => exact .inr (.inr (.inl ⟨rfl, hst, rfl, by simpa [hans] using reply⟩))
      | true => exact .inr (.inr (.inr (.inl ⟨rfl, hst, rfl, reply.2 hans⟩)))
  case inr.inl => -- TIMEDOUT
    exact .inr (.inr (.inr (.inr ⟨result, hst, by simpa using reply⟩)))
  case inr.inr => -- FAILED
    exact .inl ⟨result, hst, by simpa using reply⟩

theorem callerStep_of_txnWait {c : Nat} {q : CallerPort} {s : State} (hq : s.ports[c]? = some q) (hp : q.phase = .txnWait) :
    callerStep c s = orFault (returnEnabled c s) fun enabled => if enabled then returnStep c s else .next s := by
  simp only [callerStep, hq, hp]

theorem returnInfo_eq (b : Bool) : returnInfo b = if b then 1 else 0 := by
  cases b <;> rfl

/-- Settles O42: enabled, RETURN answers with the row of Combine; in every other case asking whether it is enabled answers no. -/
theorem returnResult : Obligations.ReturnResult := by
  intro s c q hq hp
  rw [callerStep_of_txnWait hq hp]
  refine ⟨fun x res howner hterm htxx hk hres => ?_, fun hno => ?_⟩
  · have enabled : returnEnabled c s = .ok true := returnEnabled_eq_true.2 ⟨terminal_iff.2 hterm, htxx, howner⟩
    have hidle : s.st ≠ .idle := by rintro e; simp [e] at hterm
    simp only [enabled, orFault_ok, if_true, returnStep, readCurSlot_eq_ok.2 ⟨hidle, rfl⟩, readSlot_eq_ok.2 hk, hres,
      respondReply_eq, returnInfo_eq]
    rfl
  · obtain ⟨e, he⟩ := returnEnabled_ok c s
    cases e with
    | false => rw [he, orFault_ok, if_neg Bool.false_ne_true]
    | true =>
      obtain ⟨hterm, htxx, howner⟩ := returnEnabled_eq_true.1 he
      obtain hno | hno | hno | hno := hno
      · exact absurd howner hno
      · simp [hno, AdapterState.terminal] at hterm
      · simp [hno, AdapterState.terminal] at hterm
      · exact absurd htxx hno

end Sys2Proof.Machine
end

section
/-! PROOFS. The invariant of Safety.lean (spec/10_state.md R33 to R50, 60_exceptions.md R403): it holds at reset, and from a state
of it every step answers a next state, which is again one of it. -/

namespace Sys2Proof.Machine

/-- The step answers a state of the invariant: it neither faults nor is refused. -/
def Safe (r : Step) : Prop := ∃ t, r = .next t ∧ t.Inv

theorem safe_next {t : State} (h : t.Inv) : Safe (.next t) := ⟨t, rfl, h⟩

/-! ## Instructions -/

/-- A caller-port command is refused, which changes no register, or has its own effect. -/
theorem onCallerPort_safe {legal : Bool} {s : State} {k : Nat → Step} (h : s.Inv)
    (hk : ∀ c, s.issuer = .caller c → legal = true → Safe (k c)) : Safe (onCallerPort legal s k) := by
  unfold onCallerPort
  split
  · split
    · exact hk _ ‹_› ‹_›
    · exact safe_next (raise_keeps_inv h)
  · exact safe_next (refuseCommand_keeps_inv h)
  · exact safe_next (refuseCommand_keeps_inv h)

theorem onChannelTxDone_safe {r : TxDoneRest} {s : State} {k : Step} (h : s.Inv) (hk : Safe k) :
    Safe (onChannelTxDone r s k) := by
  unfold onChannelTxDone
  split
  · split
    · exact hk
    · exact safe_next (refuseCommand_keeps_inv h)
  · exact safe_next (refuseCommand_keeps_inv h)
  · exact safe_next (refuseCommand_keeps_inv h)

/-- A valid VALUE operand is a value its opcode's register may hold (30_encoding.md R158, 00_scope.md R11). -/
theorem holdsFamily_of_operandValue {c : Config} {o : Byte} {v : Operand} {val : Value}
    (h : operandValue c.osdNameMax (c.family o) v = some val) : holdsFamily c o val := operandValue_legal h

section
variable {s : State} (h : s.Inv)
include h

theorem execExCreate_safe (hd : Header) (v : Operand) : Safe (execExCreate hd v s) := by
  refine onCallerPort_safe h fun c _ _ => ?_
  split
  · exact safe_next (raise_keeps_inv h)
  · rename_i hn
    obtain ⟨x, hx, hk⟩ := slot_exists h (Nat.lt_of_not_le hn)
    rw [hx, orFault_ok]
    split
    · exact safe_next (raise_keeps_inv h)
    · rename_i hlife
      split
      · exact safe_next (raise_keeps_inv h)
      · rename_i hval
        exact safe_next (respondOk_keeps_inv
          (createSlot_keeps_inv h hk (Bool.eq_false_iff.2 hlife) (holdsFamily_of_operandValue hval)))

/-- The issuer of an EXCHANGE is a READY port, so it is not the owner of a transaction in progress (10_state.md R52, R53). -/
theorem execExchange_safe (hready : ∀ c, s.issuer = .caller c → ∃ q, s.ports[c]? = some q ∧ q.phase = .ready)
    (hd : Header) (w : Word32) : Safe (execExchange hd w s) := by
  refine onCallerPort_safe h fun c hc _ => ?_
  obtain ⟨q, hq, hp⟩ := hready c hc
  split
  · exact safe_next (raise_keeps_inv h)
  · rename_i hn
    split
    · have hcn : c < s.config.nc := h.portCount ▸ (List.getElem?_eq_some_iff.1 hq).1
      exact arm_keeps_inv h ‹_› hcn hd.la w (Nat.lt_of_not_le hn)
    · split
      · exact safe_next (raise_keeps_inv h)
      · refine safe_next (setAdmitWait_keeps_inv h (Nat.lt_of_not_le hn) fun hst howner => ?_)
        cases hp.symm.trans ((h.ports c q hq).owner.2 ⟨hst, howner⟩)

theorem execExRead_safe (hd : Header) : Safe (execExRead hd s) := by
  refine onCallerPort_safe h fun c _ _ => ?_
  split
  · exact safe_next (raise_keeps_inv h)
  · rename_i hn
    obtain ⟨x, hx, -⟩ := slot_exists h (Nat.lt_of_not_le hn)
    rw [hx, orFault_ok, respondReply_eq]
    exact safe_next (respond_keeps_inv h)

theorem execAnnounce_safe (hd : Header) (v : Operand) : Safe (execAnnounce hd v s) := by
  have conflict : ∀ c, Safe (announceConflict c s) := fun c =>
    safe_next (raise_keeps_inv (own_fields_keep_inv h true s.issuer s.rxInit s.freeCount s.env s.outputs))
  refine onCallerPort_safe h fun c _ hl => ?_
  split
  · split
    · exact safe_next (raise_keeps_inv h)
    · rename_i hval
      split
      · exact conflict c
      · exact safe_next (respondOk_keeps_inv (writeReg_keeps_inv h
          ⟨fun _ _ => holdsFamily_of_operandValue hval, by simp [answeringEntry], by simp [answeringEntry]⟩))
  · rename_i hr
    split
    · exact conflict c
    · rw [silentEntry_eq hl (Bool.eq_false_iff.2 hr)]
      exact safe_next (respondOk_keeps_inv (writeReg_keeps_inv (useFree_keeps_inv h) ⟨by simp, by simp, by simp⟩))

theorem execRevoke_safe (hd : Header) : Safe (execRevoke hd s) := by
  refine onCallerPort_safe h fun c _ _ => ?_
  split
  · exact safe_next (respondOk_keeps_inv (writeReg_keeps_inv (useFree_keeps_inv h)
      ⟨by simp [revokedEntry], by simp [revokedEntry], by simp [revokedEntry]⟩))
  · exact safe_next (raise_keeps_inv h)

theorem execLookup_safe (hd : Header) : Safe (execLookup hd s) := by
  refine onCallerPort_safe h fun c _ _ => ?_
  split
  · exact safe_next (raise_keeps_inv h)
  · obtain ⟨hv, rfl⟩ := lookupReg_eq_some.1 ‹_›
    split
    · rw [readRegVal_eq_ok.2 ⟨hv, ‹_›, rfl⟩, orFault_ok]
      exact safe_next (respond_keeps_inv h)
    · exact safe_next (respond_keeps_inv h)

theorem execCodecSer_safe (hd : Header) (v : Operand) : Safe (execCodecSer hd v s) := by
  refine onCallerPort_safe h fun c _ _ => ?_
  split
  · exact safe_next (raise_keeps_inv h)
  · split <;> exact safe_next (respond_keeps_inv h)

theorem execCodecDes_safe (hd : Header) (b : List Byte) : Safe (execCodecDes hd b s) := by
  refine onCallerPort_safe h fun c _ _ => ?_
  obtain ⟨r, hr⟩ := deserialize_ok (s.config.family hd.opc) b
  rw [hr, orFault_ok]
  cases r with
  | none => exact safe_next (raise_keeps_inv h)
  | some v =>
    obtain ⟨hlen, hdec⟩ := deserialize_eq_some.1 hr
    obtain ⟨v', hv', hfam⟩ := decValue_ok hlen
    obtain rfl : v' = v := by simpa [hv'] using hdec
    exact safe_next (respond_keeps_inv (setCscr_keeps_inv h _ hfam))

theorem execReceived_safe (hd : Header) (b : List Byte) : Safe (execReceived hd b s) := by
  unfold execReceived
  split
  · split
    · exact receive_keeps_inv h .channel hd.la b
    · exact safe_next (refuseCommand_keeps_inv h)
  · exact safe_next (refuseCommand_keeps_inv h)
  · exact safe_next (refuseCommand_keeps_inv h)

theorem execTick_safe (hd : Header) : Safe (execTick hd s) := by
  unfold execTick
  split
  · split
    · exact safe_next (tick_keeps_inv h)
    · exact safe_next (refuseCommand_keeps_inv h)
  · exact safe_next (refuseCommand_keeps_inv h)
  · exact safe_next (refuseCommand_keeps_inv h)

/-- Under the invariant every instruction issued by a READY port, the channel or the timer answers a state of it. -/
theorem exec_safe (hready : ∀ c, s.issuer = .caller c → ∃ q, s.ports[c]? = some q ∧ q.phase = .ready) (i : Instr) :
    Safe (exec i s) := by
  cases hc : i.isCommand with
  | false =>
    rw [exec_frame hc]
    exact receive_keeps_inv h .channel s.rxInit (encode i)
  | true =>
    cases i with
    | exCreate hd v => exact execExCreate_safe h hd v
    | exchange hd w => exact execExchange_safe h hready hd w
    | exRead hd => exact execExRead_safe h hd
    | announce hd v => exact execAnnounce_safe h hd v
    | revoke hd => exact execRevoke_safe h hd
    | lookup hd => exact execLookup_safe h hd
    | statusRead hd => exact onCallerPort_safe h fun c _ _ => safe_next (respond_keeps_inv h)
    | codecSer hd v => exact execCodecSer_safe h hd v
    | codecDes hd b => exact execCodecDes_safe h hd b
    | received hd b => exact execReceived_safe h hd b
    | txDoneXFail r => exact onChannelTxDone_safe h (txDoneX_keeps_inv h false)
    | txDoneXOk r => exact onChannelTxDone_safe h (txDoneX_keeps_inv h true)
    | txDoneAFail r | txDoneAOk r => exact onChannelTxDone_safe h (safe_next (popTxa_keeps_inv h))
    | tick hd => exact execTick_safe h hd
    | reserved0 | reservedD | reservedE | reservedF => exact safe_next (refuseCommand_keeps_inv h)
    | _ => cases hc

end

/-! ## Reset (10_state.md R58) -/

@[simp] theorem readReg_resetOf (o : Byte) (c : Config) : readReg o (State.resetOf c) = RegEntry.reset :=
  Vector.getElem_replicate ..

theorem slot_of_resetOf {c : Config} {k : Nat} {x : Slot} (h : (State.resetOf c).slots[k]? = some x) : x = Slot.reset :=
  List.eq_of_mem_replicate (List.mem_of_getElem? h)

theorem port_of_resetOf {c : Config} {j : Nat} {q : CallerPort} (h : (State.resetOf c).ports[j]? = some q) :
    q = CallerPort.reset :=
  List.eq_of_mem_replicate (List.mem_of_getElem? h)

/-- At reset no transaction is in progress, no slot or entry is in use, and the queues are empty. -/
theorem resetOf_inv {c : Config} (hc : c.wf = true) : (State.resetOf c).Inv where
  config := hc
  slotCount := List.length_replicate
  portCount := List.length_replicate
  curValid := by simp [State.resetOf]
  replySink := by simp [State.resetOf]
  inboundSink := rfl
  curSlot := fun h => absurd rfl h
  owner := fun h => absurd rfl h
  slots := by
    intro k x hx
    obtain rfl := slot_of_resetOf hx
    exact ⟨by simp [Slot.reset, Life.inTransaction, State.resetOf], fun h => absurd rfl h, by simp [Slot.reset], fun _ => rfl⟩
  transaction := fun x h => absurd rfl h
  txxPending := by simp [State.resetOf]
  txResult := rfl
  txx := by simp [State.resetOf]
  txa := by simp [State.resetOf]
  txaDepth := Nat.zero_le _
  timerRun := by simp [State.resetOf]
  elapsed := Nat.zero_le _
  notStarted := fun _ _ => rfl
  reg := by
    intro o
    rw [readReg_resetOf]
    exact ⟨by simp [RegEntry.reset], fun _ => ⟨rfl, rfl⟩, fun _ => rfl⟩
  ports := by
    intro j q hq
    obtain rfl := port_of_resetOf hq
    exact ⟨by simp [CallerPort.reset, State.resetOf], by simp [CallerPort.reset]⟩
  cscr := by simp [State.resetOf]

/-- Settles O55: State.reset is the reset state of the standard configuration. -/
theorem resetInvariant : Obligations.ResetInvariant :=
  ⟨resetOf_inv (by decide), fun _ => resetOf_inv⟩

theorem resetStep_keeps_inv {s : State} (h : s.Inv) : (resetStep s).Inv :=
  own_fields_keep_inv (resetOf_inv h.config) false (.caller 0) 0 s.freeCount _ s.outputs

/-! ## Turns -/

section
variable {s : State} (h : s.Inv)
include h

theorem commandStep_safe {p : Port} (hp : ∀ c, p = .caller c → ∃ q, s.ports[c]? = some q ∧ q.phase = .ready) :
    Safe (commandStep p s) := by
  unfold commandStep
  split
  · exact safe_next h
  · exact exec_safe (issueFrom_keeps_inv h) (by simpa using hp) _

/-- A port takes a command when READY, ADMIT when in ADMIT_WAIT and RETURN when in TXN_WAIT, each with what its guard gives. -/
theorem callerStep_safe (c : Nat) : Safe (callerStep c s) := by
  cases hq : s.ports[c]? with
  | none => simpa only [callerStep, hq] using safe_next h
  | some q =>
    cases hp : q.phase with
    | ready =>
      simp only [callerStep, hq, hp]
      exact commandStep_safe h (by rintro _ ⟨⟩; exact ⟨q, hq, hp⟩)
    | admitWait =>
      rw [callerStep_of_admitWait hq hp]
      split
      · have hcn : c < s.config.nc := h.portCount ▸ (List.getElem?_eq_some_iff.1 hq).1
        exact arm_keeps_inv h ‹_› hcn _ _ ((h.ports c q hq).latch hp)
      · exact safe_next h
    | txnWait =>
      rw [callerStep_of_txnWait hq hp]
      obtain ⟨e, he⟩ := returnEnabled_ok c s
      rw [he, orFault_ok]
      split
      · exact returnStep_keeps_inv h (by simpa [‹e = true›] using he)
      · exact safe_next h

theorem deliverStep_safe : Safe (deliverStep s) := by
  unfold deliverStep
  split
  · exact safe_next h
  · rw [unitFrame_eq, orFault_ok]
    split
    · exact receive_keeps_inv (deliverFrom_keeps_inv h) _ _ _
    · exact exec_safe (deliverFrom_keeps_inv h) (by simp) _

theorem timerTimeout_safe : Safe (timerTimeout s) := by
  unfold timerTimeout
  split
  · exact timeoutStep_keeps_inv h ‹_›
  · exact safe_next h

theorem runMove_safe (m : Move) : Safe (runMove m s) := by
  cases m with
  | caller c => exact callerStep_safe h c
  | channel => exact commandStep_safe h (by simp)
  | deliver => exact deliverStep_safe h
  | timer => exact commandStep_safe h (by simp)
  | timeout => exact timerTimeout_safe h
  | reset => exact safe_next (resetStep_keeps_inv h)

/-- From a state of the invariant every step answers a state of the invariant. -/
theorem step_safe : Safe (step s) := by
  rw [step, stepMachine, if_pos h.config]
  split
  · exact safe_next h
  · exact runMove_safe (takeTurn_keeps_inv h) _

end

/-- Settles O54: the state a step answers is the one `step_safe` speaks of. -/
theorem stepKeepsInvariant : Obligations.StepKeepsInvariant := by
  intro s t h ht
  obtain ⟨t', ht', hinv⟩ := step_safe h
  obtain rfl : t = t' := by simpa [ht] using ht'
  exact hinv

/-! ## Faults (60_exceptions.md R403) -/

/-- An access past FRAME_MAX, or past LEN inside it, faults under its own name (20_memory.md R104). -/
theorem inFrame_eq_error {len addr n : Nat} :
    (15 < addr + n → inFrame len addr n = .error .bufferIndex) ∧
      (addr + n ≤ 15 → len < addr + n → inFrame len addr n = .error .paramRegion) := by
  refine ⟨fun h => if_pos h, fun h hlen => ?_⟩
  rw [inFrame, if_neg (Nat.not_lt.2 h), if_pos hlen]

/-- MemRead and MemWrite fault as the access does. -/
theorem memory_fault {buf : FrameBuf} {len addr n : Nat} {bs : List Byte} (hn : bs.length = n) {f : Fault}
    (hf : inFrame len addr n = .error f) : memRead buf len addr n = .error f ∧ memWrite buf len addr bs = .error f := by
  simp only [memRead, memWrite, hn, hf, and_self]

/-- Settles O56: each guard names its fault, and no guard fails under the invariant. -/
theorem noStepFaults : Obligations.NoStepFaults := by
  refine ⟨fun s hst => ⟨if_pos hst, if_pos hst, if_pos hst⟩,
    fun s hv => ⟨if_neg (by simp [hv]), if_neg (by simp [hv])⟩,
    fun x => ⟨fun hx => if_pos hx, fun hx => ?rplVal⟩, fun e he => ?regVal, fun q hq => if_neg hq,
    fun buf len addr n bs b hn => ⟨fun hend => ?buffer, fun hend hlen => ?region, rfl, ?param⟩, fun s h => ?step⟩
  case rplVal => exact if_neg (by simp [hx])
  case regVal => exact if_neg (by obtain he | he := he <;> simp [he])
  case buffer => exact memory_fault hn (inFrame_eq_error.1 hend)
  case region => exact memory_fault hn (inFrame_eq_error.2 hend hlen)
  case param => exact fun hb => if_neg (Nat.not_le.2 hb)
  case step =>
    obtain ⟨t, ht, -⟩ := step_safe h
    exact ⟨t, ht⟩

end Sys2Proof.Machine
end

section
/-! PROOFS. The laws of the frame codec that hold of every value (spec/40_frame_codec.md R214 to R217, R221, R222). -/

namespace Sys2Proof.Machine

/-- Settles O13: the two families have width 1, and their one byte is the value. -/
theorem oneByteFamilies : Obligations.OneByteFamilies := by
  intro m v b
  have byte : be 1 v.toNat = [v] := by simp [be_succ]
  refine ⟨?_, ?_, deserialize_eq_ite (lengthOk_fixed rfl) fun hb => ?_, deserialize_eq_ite (lengthOk_fixed rfl) fun hb => ?_⟩
  · rw [serialize_fixed rfl, encValue, byte]
  · rw [serialize_fixed rfl, encValue, byte]
  all_goals
    match b, hb with
    | [b0], _ => simp [decValue, decNumber_all, Except.map, unbe_cons]

/-! ## Round trip (R221) -/

/-- Decoding the encoding of a value of w bytes gives back the number it holds. -/
theorem decNumber_be (w n : Nat) : decNumber w (be w n) = .ok (n % 256 ^ w) := by
  rw [decNumber_all (be_length w n), unbe_be]

theorem decValue_encValue (v : Value) : decValue v.family (encValue v) = .ok v := by
  cases v with
  | empty | language => rfl
  | osdName | raw => simp [decValue, encValue, Value.family, Except.map]
  | version n | powerStatus n | uiKey n | physAddr n | vendorId n =>
    have := n.isLt
    simp [decValue, encValue, Value.family, decNumber_be, Except.map, Nat.mod_eq_of_lt this]

/-- An encoding that fits in a frame passes the length check of its family. -/
theorem lengthOk_encValue {v : Value} (h : (encValue v).length ≤ 14) : lengthOk v.family (encValue v).length = true := by
  cases hw : v.family.width with
  | some w => exact (lengthOk_fixed hw).2 (encValue_length hw)
  | none => exact (lengthOk_variable hw).2 h

theorem deserialize_of_serialize {v : Value} {b : List Byte} (h : serialize v 14 = some b) :
    deserialize v.family b = .ok (some v) := by
  obtain ⟨rfl, -, -⟩ := serialize_eq_some.1 h
  exact deserialize_eq_some.2 ⟨lengthOk_encValue (serialize_length h), decValue_encValue v⟩

/-- A fixed-width value always fits in a frame. -/
theorem serialize_of_fixed {v : Value} {w : Nat} (hw : v.family.width = some w) : serialize v 14 = some (encValue v) := by
  have fits : w ≤ min 14 14 := by
    cases v <;> simp only [Value.family, Family.width, Option.some.injEq, reduceCtorEq] at hw
    all_goals omega
  rw [serialize_fixed hw, if_pos fits]

/-- Settles O14: fixed-width values and RAW values always fit; of the names, the empty one and the long ones are not written. -/
theorem codecRoundTrip : Obligations.CodecRoundTrip := by
  intro osdNameMax v hlegal
  refine ⟨fun b => deserialize_of_serialize, ?_⟩
  cases v with
  | osdName b =>
    obtain ⟨-, -, name, -⟩ := byteFamilyEncoders 14 0 0 0 b
    rw [name]
    simp only [ite_eq_right_iff, reduceCtorEq, imp_false, Value.osdName.injEq, exists_eq_left']
    omega
  | raw b =>
    obtain ⟨-, -, -, raw⟩ := byteFamilyEncoders 14 0 0 0 b
    have fits : b.length ≤ 14 := of_decide_eq_true hlegal
    simp [raw, fits]
  | _ =>
    rw [serialize_of_fixed rfl]
    simp

/-! ## Lengths (R222) -/

/-- Settles O15: Serialize checks both bounds, and Deserialize succeeds exactly when the length check does. -/
theorem codecLengths : Obligations.CodecLengths := by
  refine ⟨fun v m b hs => ?_, fun f b => ?_⟩
  · obtain ⟨-, hlen, -⟩ := serialize_eq_some.1 hs
    exact ⟨hlen.trans (Nat.min_le_right _ _), hlen.trans (Nat.min_le_left _ _)⟩
  · obtain ⟨r, hr⟩ := deserialize_ok f b
    have passed : r.isSome = true ↔ lengthOk f b.length = true := by
      cases r with
      | none => simp [deserialize_eq_none.1 hr]
      | some v => simp [(deserialize_eq_some.1 hr).1]
    refine ⟨r, hr, passed.trans ?_⟩
    cases hw : f.width with
    | some w => exact lengthOk_fixed hw
    | none => exact lengthOk_variable hw

end Sys2Proof.Machine
end

section
/-! PROOFS. The laws of the registry (spec/41_registry.md R264, 10_state.md R46): what a sequence of announcements answers, and which
instructions write an entry. -/

namespace Sys2Proof.Machine

/-! ## Uniqueness (R264) -/

/-- The port answered ERROR_NONE with no value, and the next command sees the same issuer and configuration. -/
def AnsweredNone (c : Nat) (s t : State) : Prop :=
  t.issuer = s.issuer ∧ t.config = s.config ∧ t.outputs = s.outputs ++ [⟨.caller c, ⟨.none, 0, []⟩⟩]

section
variable {s : State} {c : Nat} (hc : s.issuer = .caller c)
include hc

/-- A fitting ANNOUNCE of an opcode without a handler registers one. -/
theorem exec_announce_free {h : Header} {v : Operand} (hf : AnnounceFits s.config h v)
    (hv : (readReg h.opc s).valid = false) :
    ∃ t, exec (.announce h v) s = .next t ∧ AnsweredNone c s t ∧ (readReg h.opc t).valid = true := by
  obtain ⟨hl, hval⟩ := announceFits_iff.1 hf
  have free : ¬ (readReg h.opc s).valid = true := Bool.eq_false_iff.1 hv
  cases hr : h.flg.getLsbD 0 with
  | false =>
    refine ⟨_, (exec_announce_silent hc hl hr).trans (if_neg free), ⟨rfl, rfl, rfl⟩, ?_⟩
    exact congrArg RegEntry.valid ((readReg_writeReg _ _ _ _).trans (if_pos rfl))
  | true =>
    obtain ⟨val, hval⟩ := hval hr
    refine ⟨_, (exec_announce_answering hc hl hr hval).trans (if_neg free), ⟨rfl, rfl, rfl⟩, ?_⟩
    exact congrArg RegEntry.valid ((readReg_writeReg _ _ _ _).trans (if_pos rfl))

/-- REVOKE of a registered opcode removes its handler. -/
theorem exec_revoke_registered {h : Header} (hl : legalOpcodeOnly h = true) (hv : (readReg h.opc s).valid = true) :
    ∃ t, exec (.revoke h) s = .next t ∧ AnsweredNone c s t ∧ (readReg h.opc t).valid = false := by
  refine ⟨respondOk (.caller c) (writeReg h.opc (revokedEntry (freshValue s)) (useFree s)), ?_, ⟨rfl, rfl, rfl⟩, ?_⟩
  · simp only [exec, execRevoke, onCallerPort_legal hc hl, hv, if_true]
  · exact congrArg RegEntry.valid ((readReg_writeReg _ _ _ _).trans (if_pos rfl))

end

/-- Settles O21: register, conflict, remove, register. -/
theorem registryUniqueness : Obligations.RegistryUniqueness := by
  rintro s c o h1 h2 h3 hr v1 v2 v3 hc hfree rfl h2opc h3opc hf1 hf2 hf3 rfl
  obtain ⟨s1, he1, ⟨hi1, hcfg1, hout1⟩, hreg1⟩ := exec_announce_free hc hf1 hfree
  have he2 := exec_announce_registered (hi1.trans hc) (hcfg1 ▸ hf2) (h2opc ▸ hreg1)
  obtain ⟨s3, he3, ⟨hi3, hcfg3, hout3⟩, hreg3⟩ :=
    exec_revoke_registered (s := conflicted c s1) (h := ⟨0, h1.opc, 0, 0, 0⟩) (hi1.trans hc) rfl hreg1
  have hcfg : s3.config = s.config := hcfg3.trans hcfg1
  obtain ⟨s4, he4, ⟨-, -, hout4⟩, hreg4⟩ :=
    exec_announce_free (hi3.trans (hi1.trans hc)) (hcfg ▸ hf3) (h3opc ▸ hreg3)
  refine ⟨s1, conflicted c s1, s3, s4, he1, he2, he3, he4, rfl, hreg1, hreg3, h3opc ▸ hreg4, ?_⟩
  rw [hout4, hout3, conflicted_outputs, hout1]
  simp

/-! ## What the shared effects can write -/

theorem tick_frame (s : State) : tick s = { s with elapsed := (tick s).elapsed } := by
  unfold tick
  split <;> rfl

theorem ArmEffect.frame {c : Nat} {d : LogicalAddr} {k : BitVec 4} {w : Word32} {s t : State} (h : ArmEffect c d k w s t) :
    t = { s with
      curValid := t.curValid, curSlot := t.curSlot, curDest := t.curDest, owner := t.owner, st := t.st, slots := t.slots
      waitMs := t.waitMs, elapsed := t.elapsed, timerRun := t.timerRun, txx := t.txx, txXResult := t.txXResult
      replySink := t.replySink, ports := t.ports, outputs := t.outputs } := by
  cases h <;> rfl

theorem TxDoneXEffect.frame {s t : State} {ok : Bool} (h : TxDoneXEffect s ok t) :
    t = { s with
      txx := t.txx, txXResult := t.txXResult, st := t.st, curValid := t.curValid, timerRun := t.timerRun
      slots := t.slots } := by
  cases h <;> rfl

theorem ReceiveEffect.frame {p : Port} {i : LogicalAddr} {s t : State} {b : List Byte} (h : ReceiveEffect p i s b t) :
    t = { s with
      st := t.st, curValid := t.curValid, timerRun := t.timerRun, slots := t.slots, txa := t.txa, outputs := t.outputs } := by
  cases h with
  | footer => rfl
  | reply => rfl
  | other _ _ _ h => obtain rfl | ⟨r, -, rfl⟩ := inbound_eq_ok h <;> rfl

/-! ## The writers of the registry (R46) -/

theorem readReg_congr {s t : State} (h : t.reg = s.reg) (o : Byte) : readReg o t = readReg o s := by
  simp only [readReg, h]

/-- An instruction keeps the registry, or writes the one entry its OPC names. -/
theorem Effect.reg_eq_or_written {i : Instr} {s t : State} (h : Effect i s t) :
    t.reg = s.reg ∨ ∃ hd e, t.reg = (writeReg hd.opc e s).reg ∧ (readReg hd.opc s).valid = !e.valid ∧
      ((∃ v, i = .announce hd v ∧ e.valid = true) ∨ (i = .revoke hd ∧ e.valid = false)) := by
  cases h with
  | unchanged | answers | creates | conflicts | decodes | waits | txDoneA => exact .inl rfl
  | announces hd v _ c val _ _ hv => exact .inr ⟨hd, _, rfl, hv, .inl ⟨v, rfl, rfl⟩⟩
  | announcesSilent hd v _ c _ _ hv => exact .inr ⟨hd, _, rfl, hv, .inl ⟨v, rfl, rfl⟩⟩
  | revokes hd _ c hv => exact .inr ⟨hd, _, rfl, hv, .inr ⟨rfl, rfl⟩⟩
  | arms _ _ _ _ _ _ _ _ ha => exact .inl (congrArg State.reg ha.frame :)
  | txDoneX _ _ _ _ _ hx => exact .inl (congrArg State.reg hx.frame :)
  | receives _ _ _ _ _ _ hr => exact .inl (congrArg State.reg hr.frame :)
  | ticks => exact .inl (congrArg State.reg (tick_frame s) :)

/-- Settles O22: the one entry that is written is the one that changes, and its VALID bit is turned over. -/
theorem registryWriters : Obligations.RegistryWriters := by
  intro i s t o he hne
  obtain hreg | ⟨hd, e, hreg, hv, hi⟩ := (exec_effect he).reg_eq_or_written
  · exact absurd (readReg_congr hreg o) hne
  · have written : readReg o t = if o = hd.opc then e else readReg o s := (readReg_congr hreg o).trans (readReg_writeReg ..)
    split at written
    · subst o
      rw [written]
      obtain ⟨v, rfl, hvalid⟩ | ⟨rfl, hvalid⟩ := hi
      · exact .inl ⟨hd, v, rfl, rfl, by simp [hv, hvalid], hvalid⟩
      · exact .inr ⟨hd, rfl, rfl, by simp [hv, hvalid], hvalid⟩
    · exact absurd written hne

end Sys2Proof.Machine
end

section
/-! PROOFS. What an instruction answers and what it may change (spec/44_status.md R391, 60_exceptions.md R400, 20_memory.md R112,
30_encoding.md R161). -/

namespace Sys2Proof.Machine

/-! ## Refused commands (R391) -/

/-- The command is RECEIVED, the one that is answered on every port. -/
def isReceived : Instr → Bool
  | .received _ _ => true
  | _ => false

theorem refuseCommand_caller {b : Bool} {s : State} {c : Nat} (hc : s.issuer = .caller c) :
    refuseCommand b s = raise (.caller c) .illegalCommand s := by
  simp only [refuseCommand, hc]

theorem refuseCommand_received (s : State) : refuseCommand true s = raise s.issuer .illegalCommand s := by
  unfold refuseCommand
  split <;> simp [*]

theorem refuseCommand_silent {s : State} (hc : ∀ c, s.issuer ≠ .caller c) : refuseCommand false s = s := by
  unfold refuseCommand
  split
  · exact absurd ‹_› (hc _)
  · rfl
  · rfl

section
variable {i : Instr} {s : State}

theorem onCallerPort_refused {legal : Bool} (hi : isCallerCommand i = true)
    (h : ¬ legal = true ∨ portCarries s.issuer i = false) (k : Nat → Step) :
    onCallerPort legal s k = .next (refuseCommand false s) := by
  unfold onCallerPort
  split
  · rename_i c hc
    have illegal : ¬ legal = true := h.resolve_right (by simp [hc, portCarries, hi])
    rw [if_neg illegal, refuseCommand_caller hc]
  · rfl
  · rfl

theorem onChannelTxDone_refused {r : TxDoneRest} (hi : isChannelCommand i = true)
    (h : ¬ legalTxDone r = true ∨ portCarries s.issuer i = false) (k : Step) :
    onChannelTxDone r s k = .next (refuseCommand false s) := by
  unfold onChannelTxDone
  split
  · rename_i hc
    exact if_neg (h.resolve_right (by simp [hc, portCarries, hi]))
  · rfl
  · rfl

theorem execReceived_refused {hd : Header} {b : List Byte}
    (h : ¬ legalReceived hd = true ∨ portCarries s.issuer (.received hd b) = false) :
    execReceived hd b s = .next (refuseCommand true s) := by
  unfold execReceived
  split
  · rename_i hc
    exact if_neg (h.resolve_right (by simp [hc, portCarries, isChannelCommand]))
  · rfl
  · rfl

theorem execTick_refused {hd : Header} (h : ¬ legalAllZero hd = true ∨ portCarries s.issuer (.tick hd) = false) :
    execTick hd s = .next (refuseCommand false s) := by
  unfold execTick
  split
  · rename_i hc
    exact if_neg (h.resolve_right (by simp [hc, portCarries, isTimerCommand]))
  · rfl
  · rfl

/-- The check of reserved fields that each command makes before anything else; a reserved OP passes none. -/
def fieldsLegal : Instr → Bool
  | .exCreate h _ => legalExCreate h
  | .exchange h _ => legalExchange h
  | .exRead h => legalExRead h
  | .announce h _ => legalAnnounce h
  | .revoke h | .lookup h => legalOpcodeOnly h
  | .statusRead h | .tick h => legalAllZero h
  | .codecSer h _ => legalCodecSer h
  | .codecDes h _ => legalCodecDes h
  | .received h _ => legalReceived h
  | .txDoneXFail r | .txDoneXOk r | .txDoneAFail r | .txDoneAOk r => legalTxDone r
  | _ => false

/-- The "0" entries of the field table are the fields a command's check looks at (30_encoding.md R157). -/
theorem fieldsLegal_of_breaksReserved (h : BreaksReserved i) : ¬ fieldsLegal i = true := by
  cases i
  case announce hd v =>
    intro hl
    obtain ⟨hla, hslot, hhigh, hlow⟩ := legalAnnounce_iff.1 hl
    simp only [BreaksReserved] at h
    simp_all
  case reserved0 | reservedD | reservedE | reservedF => exact Bool.false_ne_true
  all_goals simp only [BreaksReserved] at h -- no frame breaks an entry
  all_goals
    simp only [fieldsLegal, legalExCreate_iff, legalExchange_iff, legalExRead_iff, legalOpcodeOnly_iff, legalAllZero_iff,
      legalCodecSer_iff, legalCodecDes_iff, legalReceived_iff, legalTxDone_iff]
    tauto

/-- A command with a "0" entry that is not 0, or on a port that does not carry it, is refused before it has any effect. -/
theorem exec_refused (hc : i.isCommand = true) (h : BreaksReserved i ∨ portCarries s.issuer i = false) :
    exec i s = .next (refuseCommand (isReceived i) s) := by
  have refusal := h.imp_left fieldsLegal_of_breaksReserved
  cases i with
  | exCreate | exchange | exRead | announce | revoke | lookup | statusRead | codecSer | codecDes =>
    exact onCallerPort_refused rfl refusal _
  | received => exact execReceived_refused refusal
  | txDoneXFail | txDoneXOk | txDoneAFail | txDoneAOk => exact onChannelTxDone_refused rfl refusal _
  | tick => exact execTick_refused refusal
  | reserved0 | reservedD | reservedE | reservedF => rfl
  | _ => cases hc

end

/-- Settles O44: every such command is refused, and the port decides what a refusal answers. -/
theorem refusedCommands : Obligations.RefusedCommands := by
  intro i s hc h
  rw [exec_refused hc h]
  refine ⟨fun c hs => ?caller, fun hd b hi => ?received, fun hs hi => ?silent, fun hd hi => ?length⟩
  case caller => rw [refuseCommand_caller hs]; rfl
  case received => rw [hi, isReceived, refuseCommand_received]; rfl
  case silent =>
    have other : isReceived i = false := by
      unfold isReceived
      split
      · exact absurd rfl (hi _ _)
      · rfl
    rw [other, refuseCommand_silent hs]
  case length => obtain rfl | rfl | rfl | rfl := hi <;> exact Laws.headerBytes_length _ _

/-! ## Error answers (60_exceptions.md R400) and the number of responses (30_encoding.md R161) -/

/-- The states in which an instruction answers an error: unchanged, with REG_CONFLICT set for ALREADY_REGISTERED, or with the
issuing port made READY. -/
def ErrorBase (s : State) (e : Result) (s' : State) : Prop :=
  s' = s ∨ (e = .alreadyRegistered ∧ s' = { s with regConflict := true }) ∨
    ∃ c, s.issuer = .caller c ∧ s' = setPhase c .ready s

/-- An instruction gives no response, one with ERROR_NONE, or raises an error. -/
theorem Effect.answer {i : Instr} {s t : State} (h : Effect i s t) :
    t.outputs = s.outputs ∨ (∃ p r, r.result = .none ∧ t.outputs = s.outputs ++ [⟨p, r⟩]) ∨
      ∃ p e s', t = raise p e s' ∧ ErrorBase s e s' := by
  cases h with
  | unchanged | waits | txDoneA => exact .inl rfl
  | ticks => exact .inl (congrArg State.outputs (tick_frame s) :)
  | txDoneX _ _ _ _ _ hx => exact .inl (congrArg State.outputs hx.frame :)
  | creates _ _ _ c | announces _ _ _ c | announcesSilent _ _ _ c | revokes _ _ c =>
    exact .inr (.inl ⟨.caller c, ⟨.none, 0, []⟩, rfl, rfl⟩)
  | decodes _ _ _ c _ r hr => exact .inr (.inl ⟨.caller c, r, hr, rfl⟩)
  | receives _ _ _ _ _ _ hr => exact .inr (.inl ⟨_, _, rfl, hr.outputs⟩)
  | conflicts _ _ _ c =>
    exact .inr (.inr ⟨.caller c, .alreadyRegistered, { s with regConflict := true }, rfl, .inr (.inl ⟨rfl, rfl⟩)⟩)
  | answers _ _ p r he =>
    obtain ⟨e, info, tail⟩ := r
    by_cases hr : e = .none
    · exact .inr (.inl ⟨p, _, hr, rfl⟩)
    · obtain ⟨rfl, rfl⟩ := he hr
      exact .inr (.inr ⟨p, e, s, rfl, .inl rfl⟩)
  | arms _ _ _ _ c hi _ _ ha =>
    cases ha with
    | wrongLife | tooLarge => exact .inr (.inr ⟨_, _, _, rfl, .inr (.inr ⟨c, hi, rfl⟩)⟩)
    | arms => exact .inl rfl

/-- Making a READY port READY changes nothing. -/
theorem setPhase_ready_of_ready {c : Nat} {s : State} (h : ∀ q, s.ports[c]? = some q → q.phase = .ready) :
    setPhase c .ready s = s := by
  have ports : s.ports.modify c (fun q => { q with phase := .ready }) = s.ports := by
    refine List.ext_getElem? fun j => ?_
    rw [List.getElem?_modify]
    cases hq : s.ports[j]? with
    | none => rfl
    | some q =>
      by_cases hj : c = j
      · subst hj
        simp [← h q hq]
      · simp [hj]
  rw [setPhase, ports]

/-- Settles O45: of the states in which an error is raised, the port's phase is the one it already had. -/
theorem errorsChangeNothing : Obligations.ErrorsChangeNothing := by
  intro i s t out he hready hout hne
  obtain hnone | ⟨p, r, hr, hok⟩ | ⟨p, e, s', rfl, hbase⟩ := (exec_effect he).answer
  · simp [hnone] at hout
  · obtain rfl : ⟨p, r⟩ = out := by simpa [hok] using hout
    exact absurd hr hne
  · obtain rfl | ⟨rfl, rfl⟩ | ⟨c, hc, rfl⟩ := hbase
    · obtain rfl : ⟨p, e, 0, []⟩ = out := by simpa using hout
      exact ⟨rfl, rfl, rfl, fun h => absurd rfl h⟩
    · obtain rfl : ⟨p, _, 0, []⟩ = out := by simpa using hout
      exact ⟨rfl, rfl, rfl, fun _ => rfl⟩
    · rw [setPhase_ready_of_ready fun q => hready c q hc] at hout ⊢
      obtain rfl : ⟨p, e, 0, []⟩ = out := by simpa using hout
      exact ⟨rfl, rfl, rfl, fun h => absurd rfl h⟩

/-! ## Reading (20_memory.md R112) -/

/-- The commands that read: EX_READ, LOOKUP, STATUS_READ, CODEC_SER and CODEC_DES. -/
def isRead : Instr → Bool
  | .exRead _ | .lookup _ | .statusRead _ | .codecSer _ _ | .codecDes _ _ => true
  | _ => false

/-- A reading command changes nothing but the responses, unless it is a CODEC_DES that decodes. -/
theorem Effect.of_read {i : Instr} {s t : State} (h : Effect i s t) (hi : isRead i = true) :
    t = { s with outputs := t.outputs } ∨ ∃ hd b, i = .codecDes hd b ∧ t = { s with outputs := t.outputs, cscr := t.cscr } := by
  cases h with
  | unchanged | answers => exact .inl rfl
  | decodes hd b => exact .inr ⟨hd, b, rfl, rfl⟩
  | receives _ _ _ _ _ hb =>
    obtain ⟨hd, rfl, -⟩ | ⟨hc, -⟩ := hb
    · cases hi
    · cases i <;> cases hi <;> cases hc
  | txDoneX _ _ _ ok | txDoneA _ _ ok => cases ok <;> cases hi
  | _ => cases hi

/-- Settles O46: the effects of a reading command are a response and CODEC_DES's write of CSCR. -/
theorem readsHaveNoEffect : Obligations.ReadsHaveNoEffect := by
  intro i s t he
  refine ⟨?_, ?_⟩
  · rintro ⟨h, hi⟩
    have read : isRead i = true := by obtain rfl | rfl | rfl | ⟨v, rfl⟩ := hi <;> rfl
    obtain ht | ⟨hd, b, rfl, -⟩ := (exec_effect he).of_read read
    · exact ht
    · simp at hi
  · rintro ⟨h, b, rfl⟩
    obtain ht | ⟨-, -, -, ht⟩ := (exec_effect he).of_read rfl
    · rw [ht]
    · exact ht

/-! ## One response per step -/

/-- An instruction gives at most one response and takes none back. -/
theorem exec_outputs {i : Instr} {s t : State} (h : exec i s = .next t) :
    ∃ out : Option Output, t.outputs = s.outputs ++ out.toList := by
  obtain hnone | ⟨p, r, -, hok⟩ | ⟨p, e, s', rfl, hbase⟩ := (exec_effect h).answer
  · exact ⟨none, by simp [hnone]⟩
  · exact ⟨some ⟨p, r⟩, hok⟩
  · obtain rfl | ⟨-, rfl⟩ | ⟨c, -, rfl⟩ := hbase <;> exact ⟨some _, rfl⟩

theorem MoveEffect.outputs {m : Move} {s t : State} (h : MoveEffect m s t) :
    ∃ out : Option Output, t.outputs = s.outputs ++ out.toList := by
  cases h with
  | holds | timesOut | resets => exact ⟨none, by simp [resetStep]⟩
  | command p i rest _ _ _ _ he => simpa using exec_outputs he
  | frame u rest i _ _ _ _ he => simpa using exec_outputs he
  | footer | returns => exact ⟨some _, rfl⟩
  | admits c q _ _ _ _ _ ha =>
    cases ha with
    | wrongLife | tooLarge => exact ⟨some _, rfl⟩
    | arms => exact ⟨none, by simp [armed]⟩

/-- Settles O47: a turn runs at most one instruction or one internal step, and each gives at most one response. -/
theorem oneResponsePerStep : Obligations.OneResponsePerStep := by
  intro s t h
  obtain ⟨-, ⟨-, rfl⟩ | ⟨m, rest, -, hm⟩⟩ := step_effect h
  · exact ⟨none, by simp⟩
  · exact hm.outputs

end Sys2Proof.Machine
end

section
/-! PROOFS. The steps of the agents and reset (spec/00_scope.md R5, R6, 43_adapter.md R320, 70_reset_and_hazards.md): a turn runs the
decoded instruction or an internal step, a step is refused only for its configuration, and what reset leaves. -/

namespace Sys2Proof.Machine

/-! ## A turn (R6, R320) -/

section
variable {s : State}

theorem step_of_turn (hwf : s.config.wf = true) {m : Move} {rest : List Move} (hm : s.env.schedule = m :: rest) :
    step s = runMove m (takeTurn rest s) := by
  simp only [step, stepMachine, hwf, if_true, hm]

theorem commandStep_of_decoded {p : Port} {i : Instr} {bs' : List Byte}
    (hd : decodeCommand s.config.catalog (portBytes p s) = .ok (i, bs')) : commandStep p s = exec i (issueFrom p bs' s) := by
  simp only [commandStep, hd]

theorem commandStep_of_not_decoded {p : Port} {e : DecodeError}
    (hd : decodeCommand s.config.catalog (portBytes p s) = .error e) : commandStep p s = .next s := by
  simp only [commandStep, hd]

theorem callerStep_of_no_port {c : Nat} (hq : s.ports[c]? = none) : callerStep c s = .next s := by
  simp only [callerStep, hq]

theorem callerStep_of_ready {c : Nat} {q : CallerPort} (hq : s.ports[c]? = some q) (hp : q.phase = .ready) :
    callerStep c s = commandStep (.caller c) s := by
  simp only [callerStep, hq, hp]

theorem deliverStep_of_frame {u : BusUnit} {us : List BusUnit} {i : Instr} (hu : s.env.inbound = u :: us)
    (hd : decodeFrame (u.data.toList.take u.len.toNat) = .ok i) : deliverStep s = exec i (deliverFrom u us s) := by
  simp only [deliverStep, hu, unitFrame_eq, orFault_ok, hd]

theorem deliverStep_of_no_unit (hu : s.env.inbound = []) : deliverStep s = .next s := by
  simp only [deliverStep, hu]

/-- A unit of length 0 has no bytes, so it is a footer (20_memory.md R103). -/
theorem deliverStep_of_footer {u : BusUnit} {us : List BusUnit} (hu : s.env.inbound = u :: us) (hlen : u.len = 0) :
    deliverStep s = receive .channel u.init [] (deliverFrom u us s) := by
  simp [deliverStep, hu, unitFrame_eq, hlen, decodeFrame]

end

/-- Settles O48: in each case the turn is taken, the bytes decode, and exec runs in the state without them. -/
theorem stepRunsDecodedInstruction : Obligations.StepRunsDecodedInstruction := by
  intro s rest hwf
  refine ⟨fun c q bs bs' i hm hq hp hbs hd => ?caller, fun bs' i hm hd => ?channel, fun bs' i hm hd => ?timer,
    fun u us i hm hu hd => ?frame, fun u us hm hu hlen => ?footer⟩
  all_goals rw [step_of_turn hwf hm]
  case caller =>
    have bytes : portBytes (.caller c) (takeTurn rest s) = bs := by simp [portBytes, hbs]
    exact (callerStep_of_ready (s := takeTurn rest s) hq hp).trans (commandStep_of_decoded (by rw [bytes]; exact hd))
  case channel => exact commandStep_of_decoded (p := .channel) (s := takeTurn rest s) hd
  case timer => exact commandStep_of_decoded (p := .timer) (s := takeTurn rest s) hd
  case frame => exact deliverStep_of_frame (s := takeTurn rest s) hu hd
  case footer => exact deliverStep_of_footer (s := takeTurn rest s) hu hlen

/-- Settles O49: each agent's turn with its guard evaluated. -/
theorem stepTakesTurn : Obligations.StepTakesTurn := by
  intro s hwf
  refine ⟨fun hm => ?idle, fun rest hm => step_of_turn hwf hm, fun c q rest hm _ _ => step_of_turn hwf hm,
    fun rest hm => step_of_turn hwf hm, fun c rest hm hc => ?noPort, fun rest hm hu => ?noUnit,
    fun c q e rest hm hq hp hd => ?caller, fun e rest hm hd => ?channel, fun e rest hm hd => ?timer⟩
  case idle => simp only [step, stepMachine, hwf, if_true, hm]
  all_goals rw [step_of_turn hwf hm]
  case noPort => exact callerStep_of_no_port (s := takeTurn rest s) (List.getElem?_eq_none hc)
  case noUnit => exact deliverStep_of_no_unit (s := takeTurn rest s) hu
  case caller =>
    exact (callerStep_of_ready (s := takeTurn rest s) hq hp).trans (commandStep_of_not_decoded hd)
  case channel => exact commandStep_of_not_decoded (p := .channel) (s := takeTurn rest s) hd
  case timer => exact commandStep_of_not_decoded (p := .timer) (s := takeTurn rest s) hd

/-! ## The configuration (70_reset_and_hazards.md R463) -/

theorem wf_iff {c : Config} : c.wf = true ↔ c.ownLa.toNat ≤ 14 ∧ 1 ≤ c.nc ∧ 1 ≤ c.nx ∧ c.nx ≤ 16 ∧ 1 ≤ c.txaDepth ∧
    14 ≤ c.osdNameMax ∧ c.osdNameMax ≤ 255 := by
  have address : c.ownLa ≠ broadcast ↔ c.ownLa.toNat ≤ 14 := by
    have := c.ownLa.isLt
    rw [ne_eq, ← BitVec.toNat_inj, show broadcast.toNat = 15 from rfl]
    omega
  simp only [Config.wf, Bool.and_eq_true, decide_eq_true_eq, address, and_assoc]

/-- The step is a next state or a fault. -/
def NotRefused (r : Step) : Prop := ∀ q, r ≠ .refused q

theorem notRefused_next (t : State) : NotRefused (.next t) := nofun

theorem notRefused_fault (f : Fault) : NotRefused (.fault f) := nofun

theorem orFault_notRefused {α : Type} {x : Except Fault α} {k : α → Step} (hk : ∀ a, NotRefused (k a)) :
    NotRefused (orFault x k) := by
  cases x with
  | error f => exact notRefused_fault f
  | ok a => exact hk a

theorem onCallerPort_notRefused {legal : Bool} {s : State} {k : Nat → Step} (hk : ∀ c, NotRefused (k c)) :
    NotRefused (onCallerPort legal s k) := by
  unfold onCallerPort
  split
  · split
    · exact hk _
    · exact notRefused_next _
  · exact notRefused_next _
  · exact notRefused_next _

theorem onChannelTxDone_notRefused {r : TxDoneRest} {s : State} {k : Step} (hk : NotRefused k) :
    NotRefused (onChannelTxDone r s k) := by
  unfold onChannelTxDone
  split
  · split
    · exact hk
    · exact notRefused_next _
  · exact notRefused_next _
  · exact notRefused_next _

section
variable (s : State)

theorem respondReply_notRefused (p : Port) (e : Result) (info : BitVec 24) (x : Slot) :
    NotRefused (respondReply p e info x s) := by
  rw [respondReply_eq]
  exact notRefused_next _

theorem arm_notRefused (c : Nat) (d : LogicalAddr) (k : BitVec 4) (w : Word32) : NotRefused (arm c d k w s) := by
  refine orFault_notRefused fun x => ?_
  split
  · exact notRefused_next _
  · refine orFault_notRefused fun q => ?_
    cases q <;> exact notRefused_next _

theorem txDoneX_notRefused (ok : Bool) : NotRefused (txDoneX ok s) := by
  unfold txDoneX
  split
  · exact notRefused_next _
  · dsimp only
    split
    · exact notRefused_next _
    · split
      · exact notRefused_next _
      · refine orFault_notRefused fun k => orFault_notRefused fun x => ?_
        split <;> exact notRefused_next _

theorem inboundAndRespond_notRefused (p : Port) (i : LogicalAddr) (o : Byte) (n : Nat) :
    NotRefused (inboundAndRespond p i o n s) :=
  orFault_notRefused fun _ => notRefused_next _

theorem receive_notRefused (p : Port) (i : LogicalAddr) (b : List Byte) : NotRefused (receive p i b s) := by
  cases b with
  | nil => exact notRefused_next _
  | cons o ps =>
    refine orFault_notRefused fun cor => ?_
    cases cor with
    | false => exact inboundAndRespond_notRefused s p i o _
    | true =>
      refine orFault_notRefused fun k => orFault_notRefused fun x => orFault_notRefused fun r => ?_
      cases r with
      | ok x' => exact notRefused_next _
      | error e => exact inboundAndRespond_notRefused s p i o _

/-- No instruction is refused, in any state: refusing is for what has no meaning, and every instruction has one. -/
theorem exec_notRefused (i : Instr) : NotRefused (exec i s) := by
  cases hc : i.isCommand with
  | false =>
    rw [exec_frame hc]
    exact receive_notRefused s _ _ _
  | true =>
    cases i with
    | exCreate hd v =>
      refine onCallerPort_notRefused fun c => ?_
      split
      · exact notRefused_next _
      · refine orFault_notRefused fun x => ?_
        split
        · exact notRefused_next _
        · split <;> exact notRefused_next _
    | exchange hd w =>
      refine onCallerPort_notRefused fun c => ?_
      split
      · exact notRefused_next _
      · split
        · exact arm_notRefused s _ _ _ _
        · split <;> exact notRefused_next _
    | exRead hd =>
      refine onCallerPort_notRefused fun c => ?_
      split
      · exact notRefused_next _
      · exact orFault_notRefused fun x => respondReply_notRefused s _ _ _ x
    | announce hd v =>
      refine onCallerPort_notRefused fun c => ?_
      split
      · split
        · exact notRefused_next _
        · split <;> exact notRefused_next _
      · split <;> exact notRefused_next _
    | revoke hd =>
      refine onCallerPort_notRefused fun c => ?_
      split <;> exact notRefused_next _
    | lookup hd =>
      refine onCallerPort_notRefused fun c => ?_
      split
      · exact notRefused_next _
      · split
        · exact orFault_notRefused fun _ => notRefused_next _
        · exact notRefused_next _
    | statusRead hd => exact onCallerPort_notRefused fun c => notRefused_next _
    | codecSer hd v =>
      refine onCallerPort_notRefused fun c => ?_
      split
      · exact notRefused_next _
      · split <;> exact notRefused_next _
    | codecDes hd b =>
      refine onCallerPort_notRefused fun c => orFault_notRefused fun r => ?_
      cases r <;> exact notRefused_next _
    | received hd b =>
      show NotRefused (execReceived hd b s)
      unfold execReceived
      split
      · split
        · exact receive_notRefused s _ _ _
        · exact notRefused_next _
      · exact notRefused_next _
      · exact notRefused_next _
    | txDoneXFail r | txDoneXOk r => exact onChannelTxDone_notRefused (txDoneX_notRefused s _)
    | txDoneAFail r | txDoneAOk r => exact onChannelTxDone_notRefused (notRefused_next _)
    | tick hd =>
      show NotRefused (execTick hd s)
      unfold execTick
      split
      · split <;> exact notRefused_next _
      · exact notRefused_next _
      · exact notRefused_next _
    | reserved0 | reservedD | reservedE | reservedF => exact notRefused_next _
    | _ => cases hc

theorem commandStep_notRefused (p : Port) : NotRefused (commandStep p s) := by
  unfold commandStep
  split
  · exact notRefused_next _
  · exact exec_notRefused _ _

theorem callerStep_notRefused (c : Nat) : NotRefused (callerStep c s) := by
  unfold callerStep
  split
  · exact notRefused_next _
  · split
    · exact commandStep_notRefused s _
    · split
      · exact orFault_notRefused fun l => arm_notRefused s _ _ _ _
      · exact notRefused_next _
    · refine orFault_notRefused fun e => ?_
      split
      · refine orFault_notRefused fun k => orFault_notRefused fun x => ?_
        split
        · exact notRefused_fault _
        · exact respondReply_notRefused _ _ _ _ _
      · exact notRefused_next _

theorem runMove_notRefused (m : Move) : NotRefused (runMove m s) := by
  cases m with
  | caller c => exact callerStep_notRefused s c
  | channel | timer => exact commandStep_notRefused s _
  | deliver =>
    show NotRefused (deliverStep s)
    unfold deliverStep
    split
    · exact notRefused_next _
    · refine orFault_notRefused fun b => ?_
      split
      · exact receive_notRefused _ _ _ _
      · exact exec_notRefused _ _
  | timeout =>
    show NotRefused (timerTimeout s)
    unfold timerTimeout
    split
    · exact orFault_notRefused fun k => orFault_notRefused fun x => notRefused_next _
    · exact notRefused_next _
  | reset => exact notRefused_next _

/-- The configuration is the one thing a step is refused for. -/
theorem step_eq_refused {r : Refusal} : step s = .refused r ↔ s.config.wf = false ∧ r = .illFormedConfig := by
  unfold step stepMachine
  split
  · rename_i hwf
    simp only [hwf, Bool.true_eq_false, false_and, iff_false]
    split
    · exact notRefused_next s r
    · exact runMove_notRefused _ _ r
  · rename_i hwf
    simp [hwf, eq_comm (a := r)]

end

/-- Settles O50: the check of the configuration is the rule's, and past it nothing is refused. -/
theorem illFormedConfigRefused : Obligations.IllFormedConfigRefused := by
  intro s
  rw [← wf_iff, Bool.not_eq_true]
  refine ⟨⟨fun ⟨r, hr⟩ => ((step_eq_refused s).1 hr).1, fun hwf => ⟨_, (step_eq_refused s).2 ⟨hwf, rfl⟩⟩⟩, fun r hr => ?_⟩
  exact ((step_eq_refused s).1 hr).2

theorem Effect.config {i : Instr} {s t : State} (h : Effect i s t) : t.config = s.config := by
  cases h with
  | unchanged | answers | creates | conflicts | announces | announcesSilent | revokes | decodes | waits | txDoneA => rfl
  | arms _ _ _ _ _ _ _ _ ha => exact (congrArg State.config ha.frame :)
  | txDoneX _ _ _ _ _ hx => exact (congrArg State.config hx.frame :)
  | receives _ _ _ _ _ _ hr => exact (congrArg State.config hr.frame :)
  | ticks => exact (congrArg State.config (tick_frame s) :)

theorem MoveEffect.config {m : Move} {s t : State} (h : MoveEffect m s t) : t.config = s.config := by
  cases h with
  | holds | footer | returns | timesOut | resets => rfl
  | command p i rest _ _ _ _ he => exact (exec_effect he).config.trans (issueFrom_config s p rest)
  | frame u rest i _ _ _ _ he => exact (exec_effect he).config
  | admits _ _ _ _ _ _ _ ha => exact (congrArg State.config ha.frame :)

/-- Settles O51: of all effects only reset builds a state anew, and it builds it for the same configuration. -/
theorem configNeverChanges : Obligations.ConfigNeverChanges := by
  intro s t h
  obtain ⟨-, ⟨-, rfl⟩ | ⟨m, rest, -, hm⟩⟩ := step_effect h
  · rfl
  · exact hm.config

/-! ## Reset (70_reset_and_hazards.md R461, R462, R465) -/

/-- Settles O52: a reset step and power-on leave the same registers of the block. -/
theorem resetValues : Obligations.ResetValues := by
  rintro c s rest hwf rfl hm
  refine ⟨_, step_of_turn hwf hm, ?_⟩
  rintro u (rfl | rfl)
  all_goals
    refine ⟨rfl, rfl, rfl, rfl, rfl, rfl, rfl, rfl, rfl, List.length_replicate, fun x hx => ?slots, fun o => ?reg, rfl, rfl,
      List.length_replicate, fun q hq => ?ports, rfl⟩
    case slots =>
      obtain rfl := List.eq_of_mem_replicate hx
      exact ⟨rfl, rfl, rfl, rfl, rfl, rfl, rfl⟩
    case reg =>
      have entry := readReg_resetOf o s.config
      exact ⟨congrArg RegEntry.valid entry, congrArg RegEntry.respond entry, congrArg RegEntry.bcast entry,
        congrArg RegEntry.rplOpc entry⟩
    case ports =>
      obtain rfl := List.eq_of_mem_replicate hq
      rfl

/-- With nothing to transmit a TX_DONE does nothing (log 12). -/
theorem exec_txDone_of_empty {s : State} (hc : s.issuer = .channel) (htxx : s.txx = none) (htxa : s.txa = [])
    {r : TxDoneRest} {i : Instr} (hi : i = .txDoneXFail r ∨ i = .txDoneXOk r ∨ i = .txDoneAFail r ∨ i = .txDoneAOk r) :
    exec i s = .next s := by
  have refused : refuseCommand false s = s := refuseCommand_silent (by simp [hc])
  have ignored : ∀ k, k = .next s → onChannelTxDone r s k = .next s := by
    rintro k rfl
    simp only [onChannelTxDone, hc, refused, ite_self]
  have popped : txDoneA s = .next s := by
    cases s
    cases htxa
    rfl
  obtain rfl | rfl | rfl | rfl := hi
  · exact ignored _ (if_pos htxx)
  · exact ignored _ (if_pos htxx)
  · exact ignored _ popped
  · exact ignored _ popped

/-- Settles O53: reset empties the queues, so what the channel still sends completes nothing. -/
theorem resetDuringActivity : Obligations.ResetDuringActivity := by
  intro s rest hwf hm
  refine ⟨_, step_of_turn hwf hm, rfl, fun q hq => ?_, rfl, rfl, fun r i => exec_txDone_of_empty rfl rfl rfl, rfl⟩
  obtain rfl := List.eq_of_mem_replicate hq
  rfl

end Sys2Proof.Machine
end

section
/-! PROOFS. The transaction as a whole (spec/10_state.md R44, R45, 43_adapter.md R336, R337): what a turn does to ST and to the slots,
said once, and from it the transition table and the life of a slot; and single flight. -/

namespace Sys2Proof.Machine

/-! ## What a turn does to ST and to the slots -/

/-- What the turn m, taken in s, does to ST and to the slots: a row of R337, an EX_CREATE, or nothing. -/
inductive TurnChange : Move → State → State → Prop where
  | keeps (m : Move) (s t : State) (hst : t.st = s.st) (hslots : t.slots = s.slots) : TurnChange m s t
  | creates (c : Nat) (q : CallerPort) (j : Nat) (x z : Slot) (s t : State) (hq : s.ports[c]? = some q) (hp : q.phase = .ready)
      (hj : s.slots[j]? = some x) (hx : x.life.inTransaction = false) (hz : z.life = .created) (hst : t.st = s.st)
      (hslots : t.slots = s.slots.set j z) : TurnChange (.caller c) s t
  | arms (c : Nat) (x z : Slot) (s t : State) (hst : s.st = .idle) (ht : t.st = .pending)
      (hj : s.slots[t.curSlot.toNat]? = some x) (hx : x.life = .created) (hs : (serialize x.reqVal 14).isSome = true)
      (hz : z.life = .armed) (hslots : t.slots = s.slots.set t.curSlot.toNat z) : TurnChange (.caller c) s t
  | fails (r : TxDoneRest) (bs : List Byte) (s t : State)
      (hd : decodeCommand s.config.catalog s.env.channelIn = .ok (.txDoneXFail r, bs)) (htxx : s.txx ≠ none)
      (hst : s.st = .pending) (ht : t.st = .failed) (htx : t.txXResult = .fail) (hslots : t.slots = s.slots) :
      TurnChange .channel s t
  | sends (r : TxDoneRest) (bs : List Byte) (x : Slot) (s t : State)
      (hd : decodeCommand s.config.catalog s.env.channelIn = .ok (.txDoneXOk r, bs)) (htxx : s.txx ≠ none)
      (hst : s.st = .pending) (ht : t.st = .resolved) (htx : t.txXResult = .ok) (hj : s.slots[s.curSlot.toNat]? = some x)
      (ha : x.ans = false) (hslots : t.slots = s.slots.set s.curSlot.toNat { x with life := .resolved }) :
      TurnChange .channel s t
  | replies (m : Move) (la : LogicalAddr) (o : Byte) (p : List Byte) (x : Slot) (v : Value) (s t : State)
      (hm : HandedOver s m la o p) (hr : Resolves s la o p x v) (ht : t.st = .resolved)
      (hslots : t.slots = s.slots.set s.curSlot.toNat { x with life := .resolved, rplVal := v, rplValid := true }) :
      TurnChange m s t
  | timesOut (x : Slot) (s t : State) (he : timeoutEnabled s = true) (ht : t.st = .timedOut)
      (hj : s.slots[s.curSlot.toNat]? = some x) (hslots : t.slots = s.slots.set s.curSlot.toNat { x with life := .timedOut }) :
      TurnChange .timeout s t
  | returns (c : Nat) (x : Slot) (s t : State) (he : returnEnabled c s = .ok true) (ht : t.st = .idle)
      (hj : s.slots[s.curSlot.toNat]? = some x) (hslots : t.slots = s.slots.set s.curSlot.toNat { x with life := .released }) :
      TurnChange (.caller c) s t
  | resets (s t : State) (ht : t.st = .idle) : TurnChange .reset s t

/-- A request was built only if the slot's value serializes (42_exchange.md R292). -/
theorem serialize_of_prepare {a d : LogicalAddr} {x : Slot} {r : TxReq} (h : prepare a d x = .ok (some r)) :
    (serialize x.reqVal 14).isSome = true := by
  have hlive : x.life ≠ .released := by
    intro hx
    simp [prepare, readReqVal, hx] at h
  cases hs : serialize x.reqVal 14 with
  | none => simp [prepare_of_too_large hlive hs] at h
  | some b => rfl

theorem ArmEffect.turnChange {c : Nat} {d : LogicalAddr} {k : BitVec 4} {w : Word32} {s t : State} (hst : s.st = .idle)
    (h : ArmEffect c d k w s t) : TurnChange (.caller c) s t := by
  cases h with
  | wrongLife | tooLarge => exact .keeps _ _ _ rfl rfl
  | arms x r hk hl hp => exact .arms c x _ s _ hst rfl hk hl (serialize_of_prepare hp) rfl rfl

/-- A received frame keeps ST and the slots, or it is the reply that resolves the transaction. -/
theorem ReceiveEffect.keeps_or_resolves {p : Port} {i : LogicalAddr} {s t : State} {b : List Byte}
    (h : ReceiveEffect p i s b t) :
    (t.st = s.st ∧ t.slots = s.slots) ∨ ∃ o ps x v, b = o :: ps ∧ Resolves s i o ps x v ∧ t.st = .resolved ∧
      t.slots = s.slots.set s.curSlot.toNat { x with life := .resolved, rplVal := v, rplValid := true } := by
  cases h with
  | footer => exact .inl ⟨rfl, rfl⟩
  | reply o ps x x' hst hk ha hi hc =>
    obtain ⟨hev, ho, v, hv, rfl⟩ := complete_eq_ok hc
    exact .inr ⟨o, ps, x, v, rfl, ⟨hst, hk, ha, hi, hev, ho, hv⟩, rfl, rfl⟩
  | other _ _ _ h => obtain rfl | ⟨r, -, rfl⟩ := inbound_eq_ok h <;> exact .inl ⟨rfl, rfl⟩

/-- A command of a port: the issuer of a command that writes ST or a slot is the port that carries it. -/
theorem Effect.turnChange {p : Port} {i : Instr} {rest : List Byte} {s t : State} (h : Effect i (issueFrom p rest s) t)
    (hd : decodeCommand s.config.catalog (portBytes p s) = .ok (i, rest))
    (hp : ∀ c, p = .caller c → ∃ q, s.ports[c]? = some q ∧ q.phase = .ready) : TurnChange (portMove p) s t := by
  have kept : ∀ {t : State}, t.st = (issueFrom p rest s).st → t.slots = (issueFrom p rest s).slots →
      TurnChange (portMove p) s t := fun hst hslots =>
    .keeps _ _ _ (hst.trans (issueFrom_st ..)) (hslots.trans (issueFrom_slots ..))
  cases h with
  | unchanged | answers | conflicts | announces | announcesSilent | revokes | decodes | waits | txDoneA =>
    exact .keeps _ _ _ (by simp) (by simp)
  | ticks => exact kept (congrArg State.st (tick_frame _) :) (congrArg State.slots (tick_frame _) :)
  | creates hdr v _ c x val hi hn hk hx =>
    obtain rfl : p = .caller c := by simpa using hi
    obtain ⟨q, hq, hready⟩ := hp c rfl
    exact .creates c q _ x (createdSlot hdr val x) s _ hq hready hk hx rfl (by simp) (by simp)
  | arms hdr w _ _ c hi hn hst ha =>
    obtain rfl : p = .caller c := by simpa using hi
    cases ha with
    | wrongLife | tooLarge => exact kept rfl rfl
    | arms x r hk hl hp => exact .arms c x _ s _ hst rfl hk hl (serialize_of_prepare hp) rfl rfl
  | txDoneX r _ _ ok hi hx =>
    obtain rfl : p = .channel := by simpa using hi
    cases hx with
    | ignored | late | waits => exact kept rfl rfl
    | fails htxx hst => exact .fails r rest s _ hd htxx hst rfl rfl rfl
    | resolves htxx hst x hk ha => exact .sends r rest x s _ hd htxx hst rfl rfl hk ha rfl
  | receives _ _ _ la b hi hr =>
    obtain ⟨hdr, rfl, hissuer, rfl⟩ | ⟨hframe, -⟩ := hi
    · obtain rfl : p = .channel := by simpa using hissuer
      obtain ⟨hst, hslots⟩ | ⟨o, ps, x, v, rfl, hres, ht, hslots⟩ := hr.keeps_or_resolves
      · exact kept hst hslots
      · exact .replies _ hdr.la o ps x v s t (.inl ⟨rfl, hdr, rest, hd, rfl⟩) hres ht hslots
    · cases (decodeCommand_isCommand hd).symm.trans hframe

/-- A frame decodes to the instruction whose encoding it is. -/
theorem encode_of_decodeFrame {b : List Byte} {i : Instr} (h : decodeFrame b = .ok i) : encode i = b := by
  cases b with
  | nil => cases h
  | cons o p => exact (decodeFrame_row h).encode_eq

theorem MoveEffect.turnChange {m : Move} {s t : State} (h : MoveEffect m s t) : TurnChange m s t := by
  cases h with
  | holds | footer => exact .keeps _ _ _ rfl rfl
  | command p i rest _ _ hp hd he => exact (exec_effect he).turnChange hd hp
  | frame u rest i _ _ hu hi he =>
    rw [exec_frame (decodeFrame_isCommand hi)] at he
    obtain ⟨hst, hslots⟩ | ⟨o, ps, x, v, hb, hres, ht, hslots⟩ := (receive_effect he).keeps_or_resolves
    · exact .keeps _ _ _ hst hslots
    · have bytes : u.data.toList.take u.len.toNat = o :: ps := (encode_of_decodeFrame hi).symm.trans hb
      exact .replies _ u.init o ps x v s t (.inr ⟨rfl, u, rest, hu, rfl, bytes⟩) hres ht hslots
  | admits c q _ _ _ _ hst ha => exact ha.turnChange hst
  | returns c q x res r _ hq hp he hk => exact .returns c x s _ he rfl hk rfl
  | timesOut x _ he hk => exact .timesOut x s _ he rfl hk rfl
  | resets => exact .resets s _ rfl

/-- A step takes no turn and changes nothing, or makes the changes of the turn it takes. -/
theorem step_turnChange {s t : State} (h : step s = .next t) :
    t = s ∨ ∃ m rest, s.env.schedule = m :: rest ∧ TurnChange m (takeTurn rest s) t := by
  obtain ⟨-, ⟨-, rfl⟩ | ⟨m, rest, hm, he⟩⟩ := step_effect h
  · exact .inl rfl
  · exact .inr ⟨m, rest, hm, he.turnChange⟩

/-! ## The transition table (R337) -/

/-- Settles O58: the changes that write ST, row by row. -/
theorem transitionTable : Obligations.TransitionTable := by
  intro s t hinv h hne
  obtain rfl | ⟨m, rest, hm, hc⟩ := step_turnChange h
  · exact absurd rfl hne
  refine ⟨m, rest, hm, ?_⟩
  cases hc with
  | keeps _ _ _ hst => exact absurd hst hne
  | creates _ _ _ _ _ _ _ _ _ _ _ _ hst => exact absurd hst hne
  | arms c x _ _ _ hst ht hj hx hs => exact .inl ⟨hst, ht, c, x, rfl, hj, hx, hs⟩
  | fails r bs _ _ hd htxx hst ht htx => exact .inr (.inl ⟨hst, ht, rfl, htxx, htx, r, bs, hd⟩)
  | sends r bs x _ _ hd htxx hst ht htx hj ha =>
    exact .inr (.inr (.inl ⟨hst, ht, rfl, htxx, htx, ⟨r, bs, hd⟩, x, hj, ha⟩))
  | replies _ la o p x v _ _ hover hr ht hslots =>
    have hlen : s.curSlot.toNat < s.slots.length := (List.getElem?_eq_some_iff.1 hr.2.1).1
    have written : t.slots[s.curSlot.toNat]? = some { x with life := .resolved, rplVal := v, rplValid := true } := by
      rw [hslots]
      exact List.getElem?_set_self hlen
    exact .inr (.inr (.inr (.inl ⟨hr.1, ht, la, o, p, x, v, hover, hr, written⟩)))
  | timesOut x _ _ he ht =>
    obtain ⟨hst, hrun, hle⟩ := timeoutEnabled_iff.1 he
    exact .inr (.inr (.inr (.inr (.inl ⟨hst, ht, rfl, hrun, hle⟩))))
  | returns c x _ _ he ht =>
    obtain ⟨hterm, htxx, rfl⟩ := returnEnabled_eq_true.1 he
    exact .inr (.inr (.inr (.inr (.inr (.inl ⟨hterm, ht, rfl, htxx⟩)))))
  | resets _ _ ht => exact .inr (.inr (.inr (.inr (.inr (.inr ⟨ht, rfl⟩)))))

/-! ## The life of a slot (10_state.md R44) -/

/-- A slot whose LIFE differs after one slot was written is that slot. -/
theorem written_of_life_ne {l : List Slot} {j k : Nat} {x y z : Slot} (hx : l[k]? = some x) (hy : (l.set j z)[k]? = some y)
    (hne : y.life ≠ x.life) : j = k ∧ y = z := by
  by_cases hj : j = k
  · subst hj
    rw [List.getElem?_set_self (List.getElem?_eq_some_iff.1 hx).1] at hy
    exact ⟨rfl, (Option.some.inj hy).symm⟩
  · rw [List.getElem?_set_ne hj, hx] at hy
    cases hy
    exact absurd rfl hne

/-- Settles O60: each change writes one slot; the LIFE it finds is what the change asks for, or what the invariant says of the
transaction's slot. -/
theorem lifeTransitions : Obligations.LifeTransitions := by
  intro s t k x y hinv h hx hy hne
  have unwritten : t.slots ≠ s.slots := by
    intro e
    rw [e, hx] at hy
    cases hy
    exact hne rfl
  obtain rfl | ⟨m, rest, hm, hc⟩ := step_turnChange h
  · exact absurd rfl unwritten
  have written : ∀ {j : Nat} {z x' : Slot}, t.slots = s.slots.set j z → s.slots[j]? = some x' → y = z ∧ x' = x := by
    intro j z x' hslots hj
    obtain ⟨rfl, rfl⟩ := written_of_life_ne hx (hslots ▸ hy) hne
    exact ⟨rfl, Option.some.inj (hj.symm.trans hx)⟩
  have bound : s.st ≠ .idle → s.slots[s.curSlot.toNat]? = some x → x.life = transactionLife s.st := fun hst hj =>
    (hinv.transaction x hst hj).life
  refine ⟨m, rest, hm, ?_⟩
  cases hc with
  | keeps _ _ _ _ hslots => exact absurd hslots unwritten
  | fails _ _ _ _ _ _ _ _ _ hslots => exact absurd hslots unwritten
  | creates c q j _ z _ _ hq hp hj hfree hz _ hslots =>
    obtain ⟨rfl, rfl⟩ := written hslots hj
    have released := (inTransaction_eq_false.1 hfree).resolve_right fun e => hne (hz.trans e.symm)
    exact .inl ⟨released, hz, c, q, rfl, hq, hp⟩
  | arms c _ z _ _ hst ht hj hcreated _ hz hslots =>
    obtain ⟨rfl, rfl⟩ := written hslots hj
    exact .inr (.inl ⟨hcreated, hz, hst, ht, c, rfl⟩)
  | sends _ _ _ _ _ _ _ hst ht _ hj _ hslots =>
    obtain ⟨rfl, rfl⟩ := written hslots hj
    have hst : s.st = .pending := hst
    have armed := bound (by simp [hst]) hj
    rw [hst] at armed
    exact .inr (.inr (.inl ⟨armed, rfl, ht, .inl rfl⟩))
  | replies _ _ _ _ _ _ _ _ hover hr ht hslots =>
    obtain ⟨hst, hj, -⟩ := hr
    obtain ⟨rfl, rfl⟩ := written hslots hj
    have hst : s.st = .pending := hst
    have armed := bound (by simp [hst]) hj
    rw [hst] at armed
    exact .inr (.inr (.inl ⟨armed, rfl, ht, hover.imp And.left And.left⟩))
  | timesOut _ _ _ he ht hj hslots =>
    obtain ⟨rfl, rfl⟩ := written hslots hj
    obtain ⟨hst, -⟩ := timeoutEnabled_iff.1 he
    have hst : s.st = .pending := hst
    have armed := bound (by simp [hst]) hj
    rw [hst] at armed
    exact .inr (.inr (.inr (.inl ⟨armed, rfl, ht, rfl⟩)))
  | returns _ _ _ _ he ht hj hslots =>
    obtain ⟨rfl, rfl⟩ := written hslots hj
    obtain ⟨hterm, -, rfl⟩ := returnEnabled_eq_true.1 he
    have hterm : s.st = .resolved ∨ s.st = .timedOut ∨ s.st = .failed := terminal_iff.1 hterm
    have life := bound (by rintro e; simp [e] at hterm) hj
    refine .inr (.inr (.inr (.inr (.inl ⟨?_, rfl, ht, rfl⟩))))
    obtain hst | hst | hst := hterm <;> simp [life, hst, transactionLife]
  | resets => exact .inr (.inr (.inr (.inr (.inr rfl))))

/-! ## Single flight (R45, R336) -/

/-- CUR_SLOT, CUR_DEST and OWNER are as they were, or ARM has taken ST from IDLE to PENDING. -/
def KeepsOrArms (s t : State) : Prop :=
  (t.curSlot = s.curSlot ∧ t.curDest = s.curDest ∧ t.owner = s.owner) ∨ (s.st = .idle ∧ t.st = .pending)

theorem ArmEffect.keepsOrArms {c : Nat} {d : LogicalAddr} {k : BitVec 4} {w : Word32} {s t : State} (hst : s.st = .idle)
    (h : ArmEffect c d k w s t) : KeepsOrArms s t := by
  cases h with
  | wrongLife | tooLarge => exact .inl ⟨rfl, rfl, rfl⟩
  | arms => exact .inr ⟨hst, rfl⟩

theorem Effect.keepsOrArms {i : Instr} {s t : State} (h : Effect i s t) : KeepsOrArms s t := by
  have framed : ∀ {f : State}, t = f → f.curSlot = s.curSlot → f.curDest = s.curDest → f.owner = s.owner →
      KeepsOrArms s t := by
    rintro f rfl hslot hdest howner
    exact .inl ⟨hslot, hdest, howner⟩
  cases h with
  | unchanged | answers | creates | conflicts | announces | announcesSilent | revokes | decodes | waits | txDoneA =>
    exact .inl ⟨rfl, rfl, rfl⟩
  | arms _ _ _ _ _ _ _ hst ha => exact ha.keepsOrArms hst
  | txDoneX _ _ _ _ _ hx => exact framed hx.frame rfl rfl rfl
  | receives _ _ _ _ _ _ hr => exact framed hr.frame rfl rfl rfl
  | ticks => exact framed (tick_frame s) rfl rfl rfl

theorem MoveEffect.keepsOrArms {m : Move} {s t : State} (h : MoveEffect m s t) : KeepsOrArms s t ∨ m = .reset := by
  cases h with
  | holds | footer | returns | timesOut => exact .inl (.inl ⟨rfl, rfl, rfl⟩)
  | command p i rest _ _ _ _ he => exact .inl (by simpa [KeepsOrArms] using (exec_effect he).keepsOrArms)
  | frame u rest i _ _ _ _ he => exact .inl (exec_effect he).keepsOrArms
  | admits _ _ _ _ _ _ hst ha => exact .inl (ha.keepsOrArms hst)
  | resets => exact .inr rfl

/-- Settles O57: the invariant binds a slot in a transaction to CUR_SLOT, which only ARM and reset write. -/
theorem singleFlight : Obligations.SingleFlight := by
  refine ⟨fun s hinv => ⟨fun j k x y hj hk hx hy => ?unique, ⟨fun ⟨k, x, hk, hx⟩ => ?busy, fun hst => ?bound⟩⟩,
    fun s t h hne => ?writers⟩
  case unique =>
    obtain ⟨-, hj⟩ := (hinv.slots j x hj).singleFlight.1 hx
    obtain ⟨-, hk⟩ := (hinv.slots k y hk).singleFlight.1 hy
    exact hj.trans hk.symm
  case busy => exact ((hinv.slots k x hk).singleFlight.1 hx).1
  case bound =>
    obtain ⟨x, -, hk⟩ := current_slot_exists hinv hst
    exact ⟨_, x, hk, (hinv.slots _ x hk).singleFlight.2 ⟨hst, rfl⟩⟩
  case writers =>
    obtain ⟨-, ⟨-, rfl⟩ | ⟨m, rest, hm, he⟩⟩ := step_effect h
    · simp at hne
    · obtain (⟨hslot, hdest, howner⟩ | harms) | rfl := he.keepsOrArms
      · simp [hslot, hdest, howner] at hne
      · exact .inl harms
      · exact .inr ⟨rest, hm⟩

end Sys2Proof.Machine
end
